-- ==== Sys2Proof/Word.lean ====
section
/-! DEFINITION. The word types: bytes, `w`-bit words as naturals, and the three word sizes.
Spec: `00_scope.md` R5, R11; `10_state.md` R48; `30_encoding.md` R82. -/

namespace Sys2Proof

/-- A byte (R11). -/
abbrev Byte := BitVec 8

/-! A `w`-bit word is a natural number below `2 ^ w` (R11), and has the type `Nat`.  The width is a parameter of the call,
not of the type; R48 allows "a natural with the bound as an invariant", and `Machine.Inv` states that bound (log 1). -/

/-- The three word sizes the engine can latch (R5).  DESIGN CHOICE (log 1): an inductive type, not the
2-bit code, so that the code `11` of R82, which never occurs, cannot be written down. -/
inductive WordSize where
  | w16
  | w32
  | w64
  deriving DecidableEq, Repr

/-- `w`, the number of bits of a word (R5). -/
def WordSize.bits : WordSize → Nat
  | .w16 => 16
  | .w32 => 32
  | .w64 => 64

/-- `WSEL`, the 2-bit code of the latched word size (R82). -/
def WordSize.sel : WordSize → BitVec 2
  | .w16 => 0b00#2
  | .w32 => 0b01#2
  | .w64 => 0b10#2

end Sys2Proof
end

