-- ==== Sys2Proof/Syntax.lean ====
section
/-! DEFINITION. The syntax: the 28 rows of the opcode table as one inductive type, the two formats, the
host-visible registers and windows, and the moves HOST can make at the transaction-level interface.
Spec: `30_encoding.md` R80, R81, R83; `10_state.md` R44, R45; `70_reset_and_hazards.md` R240, R243. -/

namespace Sys2Proof

/-- One constructor per row of the opcode table: four host commands (format C, R81) and twenty-four
micro-operations (format U, R83).  No row has an operand field. -/
inductive Instr where
  /-- `ENCRYPT` (R100). -/
  | encrypt
  /-- `DECRYPT` (R101). -/
  | decrypt
  /-- `ENC_BYTES` (R104). -/
  | encBytes
  /-- `DEC_BYTES` (R105). -/
  | decBytes
  /-- `IDLE`, no call in progress; takes a `CMD` write (R106). -/
  | idle
  /-- `VALIDATE` (R120). -/
  | validate
  /-- `KSEL` (R124). -/
  | ksel
  /-- `KPACK` (R135). -/
  | kpack
  /-- `SINIT` (R137). -/
  | sinit
  /-- `KMIX0` (R139). -/
  | kmix0
  /-- `KMIX` (R140). -/
  | kmix
  /-- `LOADP` (R102). -/
  | loadp
  /-- `HEXDEC` (R198). -/
  | hexdec
  /-- `LENCHK` (R103). -/
  | lenchk
  /-- `PAD` (R185). -/
  | pad
  /-- `BLKLD` (R155). -/
  | blkld
  /-- `ENC0` (R156). -/
  | enc0
  /-- `ENCA` (R157). -/
  | enca
  /-- `ENCB` (R158). -/
  | encb
  /-- `BLKST` (R159). -/
  | blkst
  /-- `DECB` (R170). -/
  | decb
  /-- `DECA` (R171). -/
  | deca
  /-- `DEC0` (R172). -/
  | dec0
  /-- `UNPAD` (R188). -/
  | unpad
  /-- `HEXENC` (R195). -/
  | hexenc
  /-- `STOREP` (R107). -/
  | storep
  /-- `FINISH` (R218). -/
  | finish
  /-- `FAIL` (R215). -/
  | fail
  deriving DecidableEq, Repr

/-- The two encoding formats: C, the 8-bit register `CMD` (R81); U, the 5-bit register `PH` (R83). -/
inductive Format where
  | command
  | phase
  deriving DecidableEq, Repr

/-- An encoded instruction: its format and its bits.  A format U code has `bits < 32`. -/
structure Code where
  format : Format
  bits   : BitVec 8
  deriving DecidableEq, Repr

/-- The operation a call performs, the field `op` of the call descriptor (R80). -/
inductive Op where
  | encrypt
  | decrypt
  | encBytes
  | decBytes
  deriving DecidableEq, Repr

/-- The five failure kinds (R211). -/
inductive FailKind where
  /-- `E_WORD_SIZE`. -/
  | wordSize
  /-- `E_ROUNDS`. -/
  | rounds
  /-- `E_KEY_LEN`. -/
  | keyLen
  /-- `E_HEX_FORMAT`. -/
  | hexFormat
  /-- `E_ARG`. -/
  | arg
  deriving DecidableEq, Repr

/-- The eight host-visible registers (R44). -/
inductive HostReg where
  | cmd
  | status
  | errcode
  | wIn
  | rIn
  | klenIn
  | plenIn
  | olen
  deriving DecidableEq, Repr

/-- The four registers with host access "read-write" (R44), that is, the writable ones other than `CMD`. -/
inductive InReg where
  | wIn
  | rIn
  | klenIn
  | plenIn
  deriving DecidableEq, Repr

/-- The three byte-addressed windows (R45). -/
inductive Window where
  | keymem
  | inmem
  | outmem
  deriving DecidableEq, Repr

/-- One move of HOST, or one turn given to ENGINE.  HOST is an agent outside the machine (R30); what it does is
the list `State.host` of its coming moves.  DESIGN CHOICE (log 3): only the accesses the rights of R44 and
R45 give HOST are moves; there is no move that writes a read-only register or `OUTMEM`, and none
that reads `KEYMEM` or `INMEM`. -/
inductive HostMove where
  /-- HOST makes no access; ENGINE performs its next micro-operation. -/
  | run
  /-- The external reset input is asserted (R240, R241). -/
  | reset
  /-- A write of `v` to register 0, `CMD` (R106). -/
  | writeCmd (v : BitVec 8)
  /-- A write to `W_IN`, `R_IN`, `KLEN_IN` or `PLEN_IN` (R44). -/
  | writeReg (r : InReg) (v : BitVec 32)
  /-- A read of one of the eight registers (R44). -/
  | readReg (r : HostReg)
  /-- A write of one byte of `KEYMEM` (R45). -/
  | writeKeymem (k : Nat) (v : Byte)
  /-- A write of one byte of `INMEM` (R45). -/
  | writeInmem (k : Nat) (v : Byte)
  /-- A read of one byte of `OUTMEM` (R45). -/
  | readOutmem (k : Nat)
  deriving DecidableEq, Repr

end Sys2Proof
end

