-- ==== Sys2Proof/Config.lean ====
section
/-! DEFINITION. What the spec calls a parameter of the step relation (`00_scope.md` R10, `10_state.md` R47),
and the free values: constants without a body, of which no proof can know a value. -/

namespace Sys2Proof

/-- One pair of magic constants (R9). -/
structure MagicPair where
  p : Nat
  q : Nat
  deriving DecidableEq, Repr

/-- `MAGIC`: one pair per word size (R9, R126). -/
structure Magic where
  m16 : MagicPair
  m32 : MagicPair
  m64 : MagicPair
  deriving DecidableEq, Repr

/-- `ROT_WIDE`: what the rotator does with bit `w` and above of its data operand (R10, R20). -/
inductive RotWide where
  /-- The spec's setting: the rotator takes the low `w` bits (R20). -/
  | reduce
  /-- Some other total function that agrees with `rotl_w` on operands below `2 ^ w` (`92_eei_decisions.md`,
  open parameters); its values elsewhere are the free values `Config.rotOther`. -/
  | other
  deriving DecidableEq, Repr

/-- `HEX_IN_CASE`: which digit cases `HEXDEC` accepts (R10, R197). -/
inductive HexInCase where
  | both
  | upper
  deriving DecidableEq, Repr

/-- `REG_BASE`: the "bus address of register number 0 and of the three memory windows" (R10). -/
structure RegBase where
  reg0   : Nat
  keymem : Nat
  inmem  : Nat
  outmem : Nat
  deriving DecidableEq, Repr

/-- The configuration of one engine (R10, R47).  DESIGN CHOICE (log 2): it stands in `State.cfg` as a field no
step changes, so that a theorem about every state is a theorem about every configuration and a run can
still be evaluated.  `bufCap` is `BUF_CAP`: `none` is unbounded.  `regBase` is `REG_BASE`: `none` is an engine not placed on a
bus, which is the setting of the table of open parameters, "none; not used by any rule" (log 21). -/
structure Config where
  magic     : Magic
  rotWide   : RotWide
  bufCap    : Option Nat
  hexInCase : HexInCase
  regBase   : Option RegBase
  deriving DecidableEq, Repr

/-- FREE VALUE (log 4): what a rotator with `ROT_WIDE` other than `REDUCE` answers for a data operand (first
argument) of more than `w` bits, an amount and a width; the source defines none (R144). -/
opaque Config.rotOther : Nat → Nat → Nat → Nat

/-- FREE VALUE (log 5): the contents of a window byte that HOST has not written since the last reset: number of
resets so far, window, byte index (R45, R50: "unspecified"; U17: "any value"). -/
opaque Config.unwrittenByte : Nat → Window → Nat → Byte

/-- FREE VALUE (log 6): what a read by HOST returns where the spec says "any value" (U15, U16): number of steps so
far that can change an output (`State.fresh`), and the read.  No read and no write of an input advances the number, so a read
made again returns the same value (R68). -/
opaque Config.freeRead : Nat → HostMove → BitVec 32

/-- FREE VALUE (log 7): what the 32-bit `OLEN` holds after a result whose length does not fit 32 bits. -/
opaque Config.freeOlen : Nat → BitVec 32

end Sys2Proof
end

