-- ==== Sys2Proof/WellFormed.lean ====
section
/-! DEFINITION. Well-formedness checks: of an instruction, of a configuration, of a host move.
Spec: `30_encoding.md` R83; `00_scope.md` R9, R10; `10_state.md` R45. -/

namespace Sys2Proof

/-- Every instruction is well formed: "A micro-operation has no operand fields" (R83), and a host command's
operands "are not in the command word" (R81). -/
def Instr.wf : Instr → Bool
  | .encrypt | .decrypt | .encBytes | .decBytes => true
  | .idle | .validate | .ksel | .kpack | .sinit | .kmix0 | .kmix | .loadp | .hexdec | .lenchk | .pad
  | .blkld | .enc0 | .enca | .encb | .blkst | .decb | .deca | .dec0 | .unpad | .hexenc | .storep
  | .finish | .fail => true

/-- A code is well formed when its bits fit its format: 8 bits for C (R81), 5 bits for U (R83). -/
def Code.wf (c : Code) : Bool :=
  match c.format with
  | .command => true
  | .phase => decide (c.bits.toNat < 32)

/-- "each value is odd, each is less than `2^w`" (R9). -/
def MagicPair.wf (m : MagicPair) (w : WordSize) : Bool :=
  decide (m.p % 2 = 1) && decide (m.q % 2 = 1) && decide (m.p < 2 ^ w.bits) && decide (m.q < 2 ^ w.bits)

def Magic.wf (m : Magic) : Bool :=
  m.m16.wf .w16 && m.m32.wf .w32 && m.m64.wf .w64

/-- `BUF_CAP` is "a positive multiple of 16 or unbounded" (R10). -/
def bufCapWf : Option Nat → Bool
  | none => true
  | some n => decide (0 < n) && decide (n % 16 = 0)

/-- The constraints R9 and R10 put on the configuration. -/
def Config.wf (c : Config) : Bool := c.magic.wf && bufCapWf c.bufCap

/-- `n` bytes fit a space of the given capacity, `none` being unbounded. -/
def fits (cap : Option Nat) (n : Nat) : Bool :=
  match cap with
  | none => true
  | some c => decide (n ≤ c)

/-- A window access is well formed when its byte exists: `KEYMEM[0 .. 254]`, `INMEM` and `OUTMEM` up to
`2 · BUF_CAP` bytes (R45). -/
def HostMove.wf (c : Config) : HostMove → Bool
  | .writeKeymem k _ => decide (k < 255)
  | .writeInmem k _ => fits (c.bufCap.map (2 * ·)) (k + 1)
  | .readOutmem k => fits (c.bufCap.map (2 * ·)) (k + 1)
  | .run | .reset | .writeCmd _ | .writeReg _ _ | .readReg _ => true

end Sys2Proof
end

