-- ==== Sys2Proof/Decode.lean ====
section
/-! DEFINITION. The decoder, total on every code and rejecting by name, and after it the encoder, written from
the same tables. Spec: `30_encoding.md` R81 (format C), R83 (format U), R90 (illegal and reserved codes). -/

namespace Sys2Proof

/-- Why a code is no instruction (R90). -/
inductive Reject where
  /-- A `CMD` value other than `0x01 .. 0x04`. -/
  | illegalCommand (v : BitVec 8)
  /-- A `PH` code `0x18 .. 0x1F`. -/
  | reservedPhase (p : BitVec 5)
  /-- A format U code of more than five bits: no code of the format. -/
  | notFiveBits (v : BitVec 8)
  deriving DecidableEq, Repr

/-- Format C: the table of R81, `CMD[7:4] = 0` and `CMD[3:0] = opc`. -/
def decodeCommand (v : BitVec 8) : Except Reject Instr :=
  match v.toNat with
  | 0x01 => .ok .encrypt
  | 0x02 => .ok .decrypt
  | 0x03 => .ok .encBytes
  | 0x04 => .ok .decBytes
  | _ => .error (.illegalCommand v)

/-- Format U: the table of R83. -/
def decodePhase (p : BitVec 5) : Except Reject Instr :=
  match p.toNat with
  | 0x00 => .ok .idle
  | 0x01 => .ok .validate
  | 0x02 => .ok .ksel
  | 0x03 => .ok .kpack
  | 0x04 => .ok .sinit
  | 0x05 => .ok .kmix0
  | 0x06 => .ok .kmix
  | 0x07 => .ok .loadp
  | 0x08 => .ok .hexdec
  | 0x09 => .ok .lenchk
  | 0x0A => .ok .pad
  | 0x0B => .ok .blkld
  | 0x0C => .ok .enc0
  | 0x0D => .ok .enca
  | 0x0E => .ok .encb
  | 0x0F => .ok .blkst
  | 0x10 => .ok .decb
  | 0x11 => .ok .deca
  | 0x12 => .ok .dec0
  | 0x13 => .ok .unpad
  | 0x14 => .ok .hexenc
  | 0x15 => .ok .storep
  | 0x16 => .ok .finish
  | 0x17 => .ok .fail
  | _ => .error (.reservedPhase p)

/-- The decoder of both formats. -/
def decode (c : Code) : Except Reject Instr :=
  match c.format with
  | .command => decodeCommand c.bits
  | .phase =>
    if c.bits.toNat < 32 then decodePhase (c.bits.setWidth 5) else .error (.notFiveBits c.bits)

/-- The 5-bit code of a micro-operation (R83); a host command has none. -/
def phaseCode : Instr → Option (BitVec 5)
  | .encrypt | .decrypt | .encBytes | .decBytes => none
  | .idle => some 0x00#5
  | .validate => some 0x01#5
  | .ksel => some 0x02#5
  | .kpack => some 0x03#5
  | .sinit => some 0x04#5
  | .kmix0 => some 0x05#5
  | .kmix => some 0x06#5
  | .loadp => some 0x07#5
  | .hexdec => some 0x08#5
  | .lenchk => some 0x09#5
  | .pad => some 0x0A#5
  | .blkld => some 0x0B#5
  | .enc0 => some 0x0C#5
  | .enca => some 0x0D#5
  | .encb => some 0x0E#5
  | .blkst => some 0x0F#5
  | .decb => some 0x10#5
  | .deca => some 0x11#5
  | .dec0 => some 0x12#5
  | .unpad => some 0x13#5
  | .hexenc => some 0x14#5
  | .storep => some 0x15#5
  | .finish => some 0x16#5
  | .fail => some 0x17#5

/-- The operation a host command asks for (R81); a micro-operation asks for none. -/
def commandOp : Instr → Option Op
  | .encrypt => some .encrypt
  | .decrypt => some .decrypt
  | .encBytes => some .encBytes
  | .decBytes => some .decBytes
  | .idle | .validate | .ksel | .kpack | .sinit | .kmix0 | .kmix | .loadp | .hexdec | .lenchk | .pad
  | .blkld | .enc0 | .enca | .encb | .blkst | .decb | .deca | .dec0 | .unpad | .hexenc | .storep
  | .finish | .fail => none

/-- The `CMD` value of an operation (R81). -/
def commandCode : Op → BitVec 8
  | .encrypt => 0x01#8
  | .decrypt => 0x02#8
  | .encBytes => 0x03#8
  | .decBytes => 0x04#8

/-- The host command of an operation (R81). -/
def Op.instr : Op → Instr
  | .encrypt => .encrypt
  | .decrypt => .decrypt
  | .encBytes => .encBytes
  | .decBytes => .decBytes

/-- The encoder: a command is its `CMD` byte, a micro-operation its 5-bit `PH` code. -/
def encode (i : Instr) : Code :=
  match commandOp i with
  | some op => ⟨.command, commandCode op⟩
  | none => ⟨.phase, ((phaseCode i).getD 0#5).setWidth 8⟩

/-- Which code a table word of `nbits` bits is.  The table numbers the bits of formats C (8 bits) and U (5 bits)
alike, so a word given as one whole byte does not say its format.  DESIGN CHOICE (log 8): five bits or
fewer are format U; of a byte, the four `CMD` values of R81 are commands, and any other value below
`0x20` is the `PH` code of that number. -/
def tableCode (nbits w : Nat) : Option Code :=
  if nbits ≤ 5 then
    if w < 32 then some ⟨.phase, BitVec.ofNat 8 w⟩ else none
  else if 1 ≤ w && w ≤ 4 then some ⟨.command, BitVec.ofNat 8 w⟩
  else if w < 32 then some ⟨.phase, BitVec.ofNat 8 w⟩
  else if w < 256 then some ⟨.command, BitVec.ofNat 8 w⟩
  else none

/-- The instruction the decoder reads from a word of the opcode table (log 8 says how the format is found). -/
def decodeTableWord (nbits w : Nat) : Option Instr :=
  match tableCode nbits w with
  | none => none
  | some c =>
    match decode c with
    | .ok i => some i
    | .error _ => none

end Sys2Proof
end

