-- ==== Sys2Proof/Machine/Defaults.lean ====
section
/-! DEFINITION. The default configuration: the table of `41_validation_constants.md` R125 and the settings of
`92_eei_decisions.md`, "Open parameters, gathered". -/

namespace Sys2Proof.Machine

/-- The default contents of `MAGIC` (R125).  PRESUMED (log 9): general knowledge, not in the source, says R125. -/
def defaultMagic : Magic where
  m16 := ⟨0xB7E1, 0x9E37⟩
  m32 := ⟨0xB7E15163, 0x9E3779B9⟩
  m64 := ⟨0xB7E151628AED2A6B, 0x9E3779B97F4A7C15⟩

/-- `MAGIC` of R125, `ROT_WIDE = REDUCE`, `BUF_CAP` unbounded, `HEX_IN_CASE = both`, no `REG_BASE` (R10 and
the table of open parameters).  `BUF_CAP` is open: unbounded is the spec's "default for tests" (log 2). -/
def defaultConfig : Config where
  magic := defaultMagic
  rotWide := .reduce
  bufCap := none
  hexInCase := .both
  regBase := none

end Sys2Proof.Machine
end

