-- ==== Sys2Proof/Machine/State.lean ====
section
/-! DEFINITION. The state of the engine, the reasons a step can stop, and the state after reset.
Spec: `10_state.md` R30 to R52; `70_reset_and_hazards.md` R240, R249. -/

namespace Sys2Proof.Machine

/-- A byte-addressed space: (address, byte) pairs in rising order of address, no address twice.  A byte that
is not listed holds no value (R49): see `Memory.read`. -/
abbrev Memory := List Host.Cell

/-- The call descriptor latched when `CMD` is written (R80, R249): `op`, `w_in`, `r_in`, `b_in`, the first
`min(b_in, 255)` bytes of `KEYMEM`, `p_in`, and the first `p_in` bytes of `INMEM`, as many as fit. -/
structure Descriptor where
  op      : Op
  wReq    : BitVec 32
  rReq    : BitVec 32
  bIn     : BitVec 32
  key     : List Byte
  pIn     : BitVec 32
  payload : List Byte
  deriving DecidableEq, Repr

/-- What HOST has supplied for the next call: the value it last wrote to each input register, and the bytes it wrote to
`KEYMEM` and `INMEM`, since the last call or reset.  "No input survives from a previous call by contract" (R243).
DESIGN CHOICE (log 24): the engine reads none of it; it is what the duty of R243 on HOST is stated with. -/
structure Supply where
  wIn     : Option (BitVec 32)
  rIn     : Option (BitVec 32)
  klenIn  : Option (BitVec 32)
  plenIn  : Option (BitVec 32)
  key     : Memory
  payload : Memory
  deriving DecidableEq, Repr

/-- Nothing supplied. -/
def Supply.nothing : Supply where
  wIn := none
  rIn := none
  klenIn := none
  plenIn := none
  key := []
  payload := []

/-- The places a read can find without a value (R49). -/
inductive Loc where
  | desc | keyLatch | payload | kind
  | w | r | blen
  | p | q
  | key | l | sch
  | ka | kb | i | j | n
  | a | b
  | rc | blk
  | buf | len
  | outmem
  | keymem | inmem
  deriving DecidableEq, Repr

/-- The whole state.  `10_state.md` names every field but the last five, which are the model's own (log 3, 5, 6, 24).
Each register of R32 to R39 is `none` when it "holds no value", which is the value R50 gives it at
reset and R106, R215, R218 give it at the start and end of a call. -/
structure State where
  /-- The configuration (R10, R47); no step changes it. -/
  cfg     : Config
  /-- `PH`, the 5-bit phase register (R41). -/
  ph      : BitVec 5
  /-- `CMD` (R44): the value being written, between the write and the start of the call; `none` otherwise. -/
  cmd     : Option (BitVec 8)
  /-- `STATUS.BUSY` (R42). -/
  busy    : Bool
  /-- `STATUS.DONE` (R42). -/
  done    : Bool
  /-- `STATUS.ERR` (R42). -/
  err     : Bool
  /-- `ERRCODE` (R43). -/
  errcode : BitVec 8
  /-- `W_IN` (R44). -/
  wIn     : BitVec 32
  /-- `R_IN` (R44). -/
  rIn     : BitVec 32
  /-- `KLEN_IN` (R44). -/
  klenIn  : BitVec 32
  /-- `PLEN_IN` (R44). -/
  plenIn  : BitVec 32
  /-- `OLEN` (R44). -/
  olen    : BitVec 32
  /-- The window `KEYMEM` (R45). -/
  keymem  : Memory
  /-- The window `INMEM` (R45). -/
  inmem   : Memory
  /-- The window `OUTMEM` (R45). -/
  outmem  : Memory
  /-- The latched call descriptor (R249). -/
  desc    : Option Descriptor
  /-- The failure kind a `raise` hands to `FAIL` (R215). -/
  kind    : Option FailKind
  /-- `W` (R32). -/
  w       : Option WordSize
  /-- `R` (R32). -/
  r       : Option Nat
  /-- `BLEN` (R32). -/
  blen    : Option Nat
  /-- `P` (R33). -/
  p       : Option Nat
  /-- `Q` (R33). -/
  q       : Option Nat
  /-- `KEY` (R34). -/
  key     : Memory
  /-- `L` (R34): the words written so far, in index order. -/
  l       : List Nat
  /-- `S` (R35): the words written so far, in index order. -/
  sch     : List Nat
  /-- `KA` (R36). -/
  ka      : Option Nat
  /-- `KB` (R36). -/
  kb      : Option Nat
  /-- `I` (R36). -/
  i       : Option Nat
  /-- `J` (R36). -/
  j       : Option Nat
  /-- `N` (R36). -/
  n       : Option Nat
  /-- `A` (R37). -/
  a       : Option Nat
  /-- `B` (R37). -/
  b       : Option Nat
  /-- `RC` (R38). -/
  rc      : Option Nat
  /-- `BLK` (R38). -/
  blk     : Option Nat
  /-- `BUF` (R39). -/
  buf     : Memory
  /-- `LEN` (R39). -/
  len     : Option Nat
  /-- MODEL'S OWN: the coming moves of HOST, first one next; when none is left ENGINE runs. -/
  host    : List HostMove
  /-- MODEL'S OWN: what HOST has supplied for the next call (R243). -/
  supply  : Supply
  /-- MODEL'S OWN: what the last read by HOST returned. -/
  rdata   : BitVec 32
  /-- MODEL'S OWN: how many resets there have been, the first argument of `Config.unwrittenByte`. -/
  epoch   : Nat
  /-- MODEL'S OWN: how many steps that can change an output there have been (micro-operations of a call, `CMD` writes, resets),
  the first argument of `Config.freeRead`. -/
  fresh   : Nat
  deriving DecidableEq, Repr

/-- Why a step stops with a fault. -/
inductive Fault where
  /-- A read of a register or array entry that holds no value.  Raised by the meaning of any micro-operation whose
  operand is missing: "A model should make a read of an unwritten location a fault" (R49, U18).  Safe: the
  sequences never reach it, which the statements about `Inv` say. -/
  | noValue (loc : Loc)
  /-- An access outside its space: a window byte that does not exist (R45), raised by the host port; a byte of
  `BUF` outside `LEN` or `BUF_CAP`, or of `OUTMEM` outside `OUT_CAP` (R60), raised by the
  micro-operations that access them.  Safe. -/
  | outOfRange (loc : Loc)
  /-- `PH` holds a reserved code `0x18 .. 0x1F`: "the model has no step for them" (U14).  Raised by the fetch.  Safe. -/
  | reservedPhase (p : BitVec 5)
  deriving DecidableEq, Repr

/-- Why a step has no meaning. -/
inductive Refusal where
  /-- An instruction without a meaning yet; raised by `exec` alone.  Safe. -/
  | notModelled (mnemonic : String)
  /-- HOST writes an input register or window while `BUSY = 1`: "refuse", says U15, "a duty on HOST" (R248).  Raised
  by the host port.  Safe. -/
  | hostWriteWhileBusy
  deriving DecidableEq, Repr

/-- The outcome of a step or of an instruction. -/
abbrev Result := Host.Outcome State Fault Refusal

/-- The state after reset (R50, R240).  DESIGN CHOICE (log 10), unsafe: the four input registers, which R50 calls
unspecified, are zero.  The windows list nothing, so their contents are free values (log 5). -/
def State.reset : State where
  cfg := defaultConfig
  ph := 0#5
  cmd := none
  busy := false
  done := false
  err := false
  errcode := 0#8
  wIn := 0#32
  rIn := 0#32
  klenIn := 0#32
  plenIn := 0#32
  olen := 0#32
  keymem := []
  inmem := []
  outmem := []
  desc := none
  kind := none
  w := none
  r := none
  blen := none
  p := none
  q := none
  key := []
  l := []
  sch := []
  ka := none
  kb := none
  i := none
  j := none
  n := none
  a := none
  b := none
  rc := none
  blk := none
  buf := []
  len := none
  host := []
  supply := .nothing
  rdata := 0#32
  epoch := 0
  fresh := 0

end Sys2Proof.Machine
end

