-- ==== Sys2Proof/Machine/Operands.lean ====
section
/-! DEFINITION. The arithmetic primitives on words, the byte and word conversions, the sizes derived from the
latched parameters, the operand assembly of the call descriptor, and the hexadecimal digits.
Spec: `00_scope.md` R8, R14 to R24; `30_encoding.md` R85 to R88; `46_serialisation.md` R197. -/

namespace Sys2Proof.Machine

/-! ### Sizes (R8, R82) -/

/-- `u = w / 8`, bytes per word. -/
def wordBytes (w : WordSize) : Nat := w.bits / 8

/-- `bs = 2w / 8`, the block size in bytes. -/
def blockBytes (w : WordSize) : Nat := 2 * w.bits / 8

/-- `t = 2(r + 1)`, the length of `S`. -/
def scheduleLength (r : Nat) : Nat := 2 * (r + 1)

/-- `c = ceil(max(b, 1) / u)`, the length of `L`. -/
def keyWords (w : WordSize) (b : Nat) : Nat :=
  (max b 1 + (wordBytes w - 1)) / wordBytes w

/-- `m = 3 · max(t, c)`, the number of key-mix iterations. -/
def mixCount (w : WordSize) (r b : Nat) : Nat := 3 * max (scheduleLength r) (keyWords w b)

/-! ### Arithmetic primitives (R14 to R20) -/

/-- `add_w` (R14). -/
def addW (w : WordSize) (x y : Nat) : Nat := (x + y) % 2 ^ w.bits

/-- `sub_w` (R15): the word `z` with `add_w z y = x`. -/
def subW (w : WordSize) (x y : Nat) : Nat := (x + 2 ^ w.bits - y) % 2 ^ w.bits

/-- `x xor y` (R16). -/
def xorW (x y : Nat) : Nat := x ^^^ y

/-- `rotl_w` (R17), for a word `x` and `0 ≤ n < w`. -/
def rotl (w : WordSize) (x : Nat) (n : Nat) : Nat :=
  (x * 2 ^ n) % 2 ^ w.bits + x / 2 ^ (w.bits - n)

/-- `rotr_w` (R18), for a word `x` and `0 ≤ n < w`. -/
def rotr (w : WordSize) (x : Nat) (n : Nat) : Nat :=
  x / 2 ^ n + (x % 2 ^ n) * 2 ^ (w.bits - n)

/-- The rotation amount `x mod w` (R19). -/
def amount (w : WordSize) (x : Nat) : Nat := x % w.bits

/-- The rotator on a data operand of any width (R20): with `ROT_WIDE = REDUCE` it takes the low `w` bits; any
other setting agrees with `rotl_w` on words, is free elsewhere, and still answers a word (DEDUCED, log 4). -/
def rotWide (c : Config) (w : WordSize) (y n : Nat) : Nat :=
  match c.rotWide with
  | .reduce => rotl w (y % 2 ^ w.bits) n
  | .other =>
    if y < 2 ^ w.bits then rotl w y n else Config.rotOther y n w.bits % 2 ^ w.bits

/-- `MAGIC[W]` (R9, R124). -/
def magicOf (m : Magic) : WordSize → MagicPair
  | .w16 => m.m16
  | .w32 => m.m32
  | .w64 => m.m64

/-! ### Byte and word conversion (R23, R24) -/

/-- `le_word` (R23): the first byte is the least significant. -/
def leWord : List Byte → Nat
  | [] => 0
  | x :: xs => x.toNat + 256 * leWord xs

/-- `le_bytes_u` (R24): `u` bytes, element `k` being `x[8k+7:8k]`. -/
def leBytes : Nat → Nat → List Byte
  | 0, _ => []
  | u + 1, x => BitVec.ofNat 8 x :: leBytes u (x / 256)

/-! ### Key schedule and block arithmetic -/

/-- `KPACK` on the key bytes (R135): `c` words of `u` bytes, little-endian, zero-filled. -/
def packKey (w : WordSize) (key : List Byte) : List Nat :=
  (List.range (keyWords w key.length)).map fun j =>
    leWord ((List.range (wordBytes w)).map fun k => key.getD (j * wordBytes w + k) 0#8)

/-- `SINIT`'s progression (R137): `n` words from `x`, each the one before plus `Q`. -/
def progression (w : WordSize) (q : Nat) : Nat → Nat → List Nat
  | 0, _ => []
  | n + 1, x => x :: progression w q n (addW w x q)

/-- The new `S[I]` of one key-mix iteration (R140): `x`, `y`, `v`. -/
def mixS (c : Config) (w : WordSize) (si ka kb : Nat) : Nat :=
  rotWide c w (addW w si ka + kb) 3

/-- The new `L[J]` of one key-mix iteration (R140), from the new `KA` and the old `KB`: `z`, `n`, `q`. -/
def mixL (c : Config) (w : WordSize) (lj ka kb : Nat) : Nat :=
  rotWide c w (lj + ka + kb) (amount w (ka + kb))

/-- One encryption half-round (R157, R158): the register updated is xor-ed with the other, rotated left by the
other's low bits, and added to. -/
def encHalf (w : WordSize) (x other key : Nat) : Nat :=
  addW w (rotl w (xorW x other) (amount w other)) key

/-- One decryption half-round (R170, R171): subtract, rotate right, xor. -/
def decHalf (w : WordSize) (x other key : Nat) : Nat :=
  xorW (rotr w (subW w x key) (amount w other)) other

/-! ### Operand assembly (R85 to R87) -/

/-- The word size a requested `w_in` names, if it is one of 16, 32, 64 (R85, R121). -/
def wordSizeOf (v : Int) : Option WordSize :=
  if v = 16 then some .w16
  else if v = 32 then some .w32
  else if v = 64 then some .w64
  else none

/-- Whether a requested `r_in` passes (R86, R122). -/
def roundsOk (v : Int) : Bool := decide (0 ≤ v) && decide (v ≤ 255)

/-- Whether a requested `b_in` passes (R87, R123). -/
def keyLenOk (b : Nat) : Bool := decide (b ≤ 255)

/-- The first `n` elements, if there are so many. -/
def takeExact {α : Type} (xs : List α) (n : Nat) : Option (List α) :=
  if n ≤ xs.length then some (xs.take n) else none

/-! ### Operations of a call -/

/-- The commands of the encrypt side: `ENCRYPT`, `ENC_BYTES` (R100, R104). -/
def encrypts : Op → Bool
  | .encrypt | .encBytes => true
  | .decrypt | .decBytes => false

/-- The commands that use the hexadecimal adapter: `ENCRYPT`, `DECRYPT` (R100, R101). -/
def usesHex : Op → Bool
  | .encrypt | .decrypt => true
  | .encBytes | .decBytes => false

/-- The longest payload `LOADP` takes (R102): the encrypt side keeps room for the padding. -/
def loadLimit (c : Config) (w : WordSize) (op : Op) : Option Nat :=
  c.bufCap.map fun cap => if encrypts op then cap - (blockBytes w - 1) else cap

/-- `IN_CAP = OUT_CAP = 2 · BUF_CAP` (R45). -/
def windowCap (c : Config) : Window → Option Nat
  | .keymem => some 255
  | .inmem | .outmem => c.bufCap.map (2 * ·)

/-- The number of padding bytes (R185). -/
def padCount (bs len : Nat) : Nat :=
  let p := bs - len % bs
  if p = bs then 0 else p

/-! ### Hexadecimal digits (R197) -/

/-- `hexdigit(v)` for a nibble: `0` to `9`, then the upper-case letters. -/
def hexDigit (v : Nat) : Byte := if v < 10 then BitVec.ofNat 8 (0x30 + v) else BitVec.ofNat 8 (0x41 + (v - 10))

/-- `hexval(ch)`; lower case when `HEX_IN_CASE` admits it (R197). -/
def hexVal (case : HexInCase) (ch : Byte) : Option Nat :=
  let x := ch.toNat
  if 0x30 ≤ x && x ≤ 0x39 then some (x - 0x30)
  else if 0x41 ≤ x && x ≤ 0x46 then some (x - 0x41 + 10)
  else if 0x61 ≤ x && x ≤ 0x66 then
    match case with
    | .both => some (x - 0x61 + 10)
    | .upper => none
  else none

/-- Bytes to characters, high nibble first (R195, R196). -/
def hexEncode : List Byte → List Byte
  | [] => []
  | x :: xs => hexDigit (x.toNat / 16) :: hexDigit (x.toNat % 16) :: hexEncode xs

/-- Characters to bytes, two by two; `none` if the number is odd or one is not a digit (R198). -/
def hexDecode (case : HexInCase) : List Byte → Option (List Byte)
  | [] => some []
  | [_] => none
  | x :: y :: rest =>
    match hexVal case x, hexVal case y, hexDecode case rest with
    | some hi, some lo, some bytes => some (BitVec.ofNat 8 (16 * hi + lo) :: bytes)
    | _, _, _ => none

/-- Whether every character is a hexadecimal digit (R198). -/
def allDigits (case : HexInCase) (chars : List Byte) : Bool := chars.all fun ch => (hexVal case ch).isSome

end Sys2Proof.Machine
end

