-- ==== Sys2Proof/Machine/Flags.lean ====
section
/-! DEFINITION. The status flags and the failure codes. The engine has no condition codes: "no carry, no
overflow, no zero flag" (R42). Spec: `10_state.md` R42, R43; `60_exceptions.md` R211; `30_encoding.md` R84. -/

namespace Sys2Proof.Machine

/-- The 8-bit value of `STATUS` (R42): `BUSY` bit 0, `DONE` bit 1, `ERR` bit 2, `STATUS[7:3]` zero. -/
def statusReg (s : State) : BitVec 8 :=
  BitVec.ofNat 8 (s.busy.toNat + 2 * s.done.toNat + 4 * s.err.toNat)

/-- The code of a failure kind in `ERRCODE` (R211, R84). -/
def failCode : FailKind → BitVec 8
  | .wordSize => 1#8
  | .rounds => 2#8
  | .keyLen => 3#8
  | .hexFormat => 4#8
  | .arg => 5#8

/-- The flags at the start of a call (R106): `DONE`, `ERR`, `ERRCODE` and `OLEN` cleared, `BUSY` set. -/
def flagsStart (s : State) : State :=
  { s with done := false, err := false, errcode := 0#8, olen := 0#32, busy := true }

/-- The flags at the failed end of a call (R215). -/
def flagsFail (e : FailKind) (s : State) : State :=
  { s with errcode := failCode e, olen := 0#32, err := true, done := false, busy := false }

/-- The flags at the successful end of a call (R218). -/
def flagsFinish (s : State) : State :=
  { s with errcode := 0#8, done := true, err := false, busy := false }

end Sys2Proof.Machine
end

