-- ==== Sys2Proof/Machine/Ops.lean ====
section
/-! DEFINITION. The named operations over memory and registers, the latching of the call descriptor, and the
three ways a call changes hands: its start (R106), a failure (`raise` and `FAIL`, R215) and the successful end
(R218). Spec: `00_scope.md` R13; `10_state.md` R49; `40_commands.md` R106; `60_exceptions.md` R215, R218. -/

namespace Sys2Proof.Machine

/-! ### Byte-addressed spaces -/

/-- One byte; a byte that is not listed holds no value (R49). -/
def Memory.read : Memory → Nat → Option Byte
  | [], _ => none
  | (k, v) :: rest, a => if k = a then some v else Memory.read rest a

/-- Write one byte, keeping the addresses in rising order. -/
def Memory.write : Memory → Nat → Byte → Memory
  | [], a, v => [(a, v)]
  | (k, x) :: rest, a, v =>
    if a < k then (a, v) :: (k, x) :: rest
    else if a = k then (a, v) :: rest
    else (k, x) :: Memory.write rest a v

/-- The canonical form: addresses strictly rising.  A byte without a value is not listed. -/
def Memory.wf : Memory → Bool
  | [] => true
  | [_] => true
  | (k, _) :: (k', v') :: rest => decide (k < k') && Memory.wf ((k', v') :: rest)

/-- The bytes `a .. a + n - 1`, if every one of them holds a value. -/
def readBytes (m : Memory) (a : Nat) : Nat → Option (List Byte)
  | 0 => some []
  | n + 1 =>
    match m.read a, readBytes m (a + 1) n with
    | some v, some vs => some (v :: vs)
    | _, _ => none

/-- Write a sequence of bytes from `a` on, in ascending order. -/
def writeBytes (m : Memory) (a : Nat) : List Byte → Memory
  | [] => m
  | v :: vs => writeBytes (m.write a v) (a + 1) vs

/-- `MemRead(space, addr, n)` (R13): little-endian. -/
def memRead (m : Memory) (a n : Nat) : Option Nat := (readBytes m a n).map leWord

/-- `MemWrite(space, addr, n, v)` (R13): little-endian. -/
def memWrite (m : Memory) (a n : Nat) (v : Nat) : Memory := writeBytes m a (leBytes n v)

/-! ### Reading what may hold no value -/

/-- Read a register or an array entry; one that holds no value is a fault (R49). -/
def need {α : Type} (loc : Loc) (x : Option α) (f : α → Result) : Result :=
  match x with
  | some v => f v
  | none => .fault (.noValue loc)

/-- Go on if the access is inside its space, and fault otherwise (R60). -/
def inSpace (loc : Loc) (ok : Bool) (k : Result) : Result :=
  if ok then k else .fault (.outOfRange loc)

/-! ### The phase register -/

/-- `PH <- p` (R13), `p` being the code of a micro-operation. -/
def goto (i : Instr) (s : State) : State :=
  match phaseCode i with
  | some p => { s with ph := p }
  | none => s

/-- `n` more steps that can change an output (log 6). -/
def tick (n : Nat) (s : State) : State := { s with fresh := s.fresh + n }

/-- "every internal register and array (R32-R39) holds no value". -/
def clearInternal (s : State) : State :=
  { s with
    w := none, r := none, blen := none, p := none, q := none, key := [], l := [], sch := [],
    ka := none, kb := none, i := none, j := none, n := none, a := none, b := none, rc := none, blk := none,
    buf := [], len := none }

/-! ### A failure of a call, and its successful end -/

/-- `raise E` (R215): control goes to `FAIL`, which is handed the kind.  DEDUCED (log 11): the rest of R215's
sequence is the micro-operation `FAIL`, the next step. -/
def raise (e : FailKind) (s : State) : Result := .next (goto .fail { s with kind := some e })

/-- What `FAIL` does (R215): `ERRCODE`, `OLEN`, the flags; nothing keeps a value; back to `IDLE`. -/
def failCall (e : FailKind) (s : State) : State :=
  goto .idle (clearInternal { flagsFail e s with desc := none, kind := none })

/-- What `FINISH` does (R218). -/
def finishCall (s : State) : State :=
  goto .idle (clearInternal { flagsFinish s with desc := none, kind := none })

/-! ### The start of a call -/

/-- A byte of a window as the engine finds it: what HOST wrote, or a free value where HOST wrote nothing since
the last reset (R45, R50; U17, log 5). -/
def windowByte (s : State) (win : Window) (k : Nat) : Byte :=
  match (match win with
    | .keymem => s.keymem
    | .inmem => s.inmem
    | .outmem => s.outmem).read k with
  | some v => v
  | none => Config.unwrittenByte s.epoch win k

/-- The first `n` bytes of a window. -/
def windowBytes (s : State) (win : Window) (n : Nat) : List Byte :=
  (List.range n).map (windowByte s win)

/-- How many of `n` payload bytes fit `INMEM` (R249, "as many as fit"). -/
def payloadFit (c : Config) (n : Nat) : Nat :=
  match windowCap c .inmem with
  | none => n
  | some cap => min n cap

/-- The call descriptor as it stands (R249). -/
def latch (op : Op) (s : State) : Descriptor where
  op := op
  wReq := s.wIn
  rReq := s.rIn
  bIn := s.klenIn
  key := windowBytes s .keymem (min s.klenIn.toNat 255)
  pIn := s.plenIn
  payload := windowBytes s .inmem (payloadFit s.cfg s.plenIn.toNat)

/-- The start of a call by a `CMD` write (R106); `none` is an illegal command, which ends at once with `E_ARG`
(R90).  While `BUSY = 1` the write is ignored (R248).  What HOST supplied is used up: the next call needs a descriptor of its
own (R243, log 24). -/
def startCall (op : Option Op) (s : State) : Result :=
  if s.busy then .next { s with cmd := none }
  else
    let s1 := clearInternal { flagsStart s with cmd := none, desc := none, kind := none, supply := .nothing }
    match op with
    | some op => .next (goto .validate { s1 with desc := some (latch op s) })
    | none => raise .arg s1

/-! ### Results -/

/-- The value `OLEN` takes for a result of `n` bytes or characters.  It is 32 bits wide (R44); a length that does
not fit is a free value (log 7). -/
def olenOf (n : Nat) : BitVec 32 := if n < 2 ^ 32 then BitVec.ofNat 32 n else Config.freeOlen n

/-- Write the result and its length (R195, R107): `OUTMEM[0 .. n)` and `OLEN`, then on to `FINISH`. -/
def deliver (out : List Byte) (s : State) : Result :=
  inSpace .outmem (fits (windowCap s.cfg .outmem) out.length)
    (.next (goto .finish { s with outmem := writeBytes s.outmem 0 out, olen := olenOf out.length }))

end Sys2Proof.Machine
end

