-- ==== Sys2Proof/Machine/Sequence.lean ====
section
/-! DEFINITION. The order of the micro-operations of a call: which phase follows where the next one depends on
the command or on a loop counter. Spec: `40_commands.md` R100, R101, R104, R105; `43_block_encrypt.md` R160,
R163; `44_block_decrypt.md` R173, R176. -/

namespace Sys2Proof.Machine

/-- What loads the payload: `HEXDEC` in `DECRYPT` (R101), `LOADP` in the others (R100, R104, R105). -/
def loadPhase : Op → Instr
  | .decrypt => .hexdec
  | .encrypt | .encBytes | .decBytes => .loadp

/-- After `LOADP`: `KSEL` on the encrypt side (R100), `LENCHK` in `DEC_BYTES` (R105). -/
def afterLoad (op : Op) : Instr := if encrypts op then .ksel else .lenchk

/-- After the last block: the result on the encrypt side (R100, R104), `UNPAD` on the decrypt side (R101, R105). -/
def afterBlocks : Op → Instr
  | .encrypt => .hexenc
  | .encBytes => .storep
  | .decrypt | .decBytes => .unpad

/-- The start of the block loop (R163, R176): `BLK` from 0, no iteration when there is no block. -/
def startBlocks (op : Op) (w : WordSize) (len : Nat) (s : State) : State :=
  goto (if len / blockBytes w = 0 then afterBlocks op else .blkld) { s with blk := some 0 }

/-- The end of one pass of the block loop: `BLK` counts up, and the loop ends at `LEN / bs`. -/
def nextBlock (op : Op) (w : WordSize) (len blk : Nat) (s : State) : State :=
  goto (if blk + 1 < len / blockBytes w then .blkld else afterBlocks op) { s with blk := some (blk + 1) }

/-- After the key schedule: `PAD` on the encrypt side (R100), the block loop on the decrypt side (R101). -/
def afterSchedule (s : State) : Result :=
  need .desc s.desc fun d =>
  if encrypts d.op then .next (goto .pad s)
  else need .w s.w fun w => need .len s.len fun len => .next (startBlocks d.op w len s)

end Sys2Proof.Machine
end

