-- ==== Sys2Proof/Machine/BlockDecrypt.lean ====
section
/-! DEFINITION. The block datapath, inverse transform. Spec: `44_block_decrypt.md`. -/

namespace Sys2Proof.Machine

/-- `DECB` (R170). -/
def execDecb (s : State) : Result :=
  need .w s.w fun w =>
  need .a s.a fun a =>
  need .b s.b fun b =>
  need .rc s.rc fun rc =>
  need .sch s.sch[2 * rc + 1]? fun k =>
  .next (goto .deca { s with b := some (decHalf w b a k) })

/-- `DECA` (R171); the round ends, and `RC` counts down to 1 (R173). -/
def execDeca (s : State) : Result :=
  need .w s.w fun w =>
  need .a s.a fun a =>
  need .b s.b fun b =>
  need .rc s.rc fun rc =>
  need .sch s.sch[2 * rc]? fun k =>
  .next (goto (if 1 ≤ rc - 1 then .decb else .dec0)
    { s with a := some (decHalf w a b k), rc := some (rc - 1) })

/-- `DEC0` (R172). -/
def execDec0 (s : State) : Result :=
  need .w s.w fun w =>
  need .a s.a fun a =>
  need .b s.b fun b =>
  need .sch s.sch[0]? fun s0 =>
  need .sch s.sch[1]? fun s1 =>
  .next (goto .blkst { s with a := some (subW w a s0), b := some (subW w b s1) })

end Sys2Proof.Machine
end

