-- ==== Sys2Proof/Machine/BlockEncrypt.lean ====
section
/-! DEFINITION. The block datapath, forward transform, and the load and store of a block.
Spec: `43_block_encrypt.md`. -/

namespace Sys2Proof.Machine

/-- `BLKLD` (R155).  Its precondition `o + bs ≤ LEN` is checked; the block loop of either direction goes on with
its first micro-operation (R160, R173). -/
def execBlkld (s : State) : Result :=
  need .desc s.desc fun d =>
  need .w s.w fun w =>
  need .len s.len fun len =>
  need .blk s.blk fun blk =>
  let o := blk * blockBytes w
  inSpace .buf (decide (o + blockBytes w ≤ len)) <|
  need .buf (memRead s.buf o (wordBytes w)) fun a =>
  need .buf (memRead s.buf (o + wordBytes w) (wordBytes w)) fun b =>
  if encrypts d.op then .next (goto .enc0 { s with a := some a, b := some b })
  else
    need .r s.r fun r =>
    .next (goto (if r = 0 then .dec0 else .decb) { s with a := some a, b := some b, rc := some r })

/-- `ENC0` (R156); `for RC = 1 .. R` begins (R160). -/
def execEnc0 (s : State) : Result :=
  need .w s.w fun w =>
  need .r s.r fun r =>
  need .a s.a fun a =>
  need .b s.b fun b =>
  need .sch s.sch[0]? fun s0 =>
  need .sch s.sch[1]? fun s1 =>
  .next (goto (if r = 0 then .blkst else .enca)
    { s with a := some (addW w a s0), b := some (addW w b s1), rc := some 1 })

/-- `ENCA` (R157). -/
def execEnca (s : State) : Result :=
  need .w s.w fun w =>
  need .a s.a fun a =>
  need .b s.b fun b =>
  need .rc s.rc fun rc =>
  need .sch s.sch[2 * rc]? fun k =>
  .next (goto .encb { s with a := some (encHalf w a b k) })

/-- `ENCB` (R158); the round ends, and `RC` counts up (R160). -/
def execEncb (s : State) : Result :=
  need .w s.w fun w =>
  need .r s.r fun r =>
  need .a s.a fun a =>
  need .b s.b fun b =>
  need .rc s.rc fun rc =>
  need .sch s.sch[2 * rc + 1]? fun k =>
  .next (goto (if rc + 1 ≤ r then .enca else .blkst)
    { s with b := some (encHalf w b a k), rc := some (rc + 1) })

/-- `BLKST` (R159): exactly the `bs` bytes of block `BLK` change; the block loop goes on (R163, R176). -/
def execBlkst (s : State) : Result :=
  need .desc s.desc fun d =>
  need .w s.w fun w =>
  need .len s.len fun len =>
  need .blk s.blk fun blk =>
  need .a s.a fun a =>
  need .b s.b fun b =>
  let o := blk * blockBytes w
  inSpace .buf (decide (o + blockBytes w ≤ len)) <|
  .next (nextBlock d.op w len blk
    { s with
      buf := memWrite (memWrite s.buf o (wordBytes w) a) (o + wordBytes w) (wordBytes w) b })

end Sys2Proof.Machine
end

