-- ==== Sys2Proof/Machine/Command.lean ====
section
/-! DEFINITION. The host commands, `IDLE`, and the micro-operations of the command layer.
Spec: `40_commands.md`. -/

namespace Sys2Proof.Machine

/-- `ENCRYPT` (R100, R106): the call starts; its sequence is what the micro-operations follow. -/
def execEncrypt (s : State) : Result := startCall (some .encrypt) s

/-- `DECRYPT` (R101, R106). -/
def execDecrypt (s : State) : Result := startCall (some .decrypt) s

/-- `ENC_BYTES` (R104, R106). -/
def execEncBytes (s : State) : Result := startCall (some .encBytes) s

/-- `DEC_BYTES` (R105, R106). -/
def execDecBytes (s : State) : Result := startCall (some .decBytes) s

/-- The operation a `CMD` value asks for, `none` for an illegal one (R81, R90). -/
def opOfCommand (v : BitVec 8) : Option Op :=
  match decodeCommand v with
  | .ok i => commandOp i
  | .error _ => none

/-- `IDLE` (R106): without a `CMD` write the engine stays idle; with one, the call starts. -/
def execIdle (s : State) : Result :=
  match s.cmd with
  | none => .next s
  | some v => startCall (opOfCommand v) s

/-- `LOADP` (R102). -/
def execLoadp (s : State) : Result :=
  need .desc s.desc fun d =>
  need .w s.w fun w =>
  if fits (loadLimit s.cfg w d.op) d.pIn.toNat then
    need .payload (takeExact d.payload d.pIn.toNat) fun bytes =>
    .next (goto (afterLoad d.op) { s with buf := writeBytes s.buf 0 bytes, len := some d.pIn.toNat })
  else raise .arg s

/-- `LENCHK` (R103). -/
def execLenchk (s : State) : Result :=
  need .w s.w fun w =>
  need .len s.len fun len =>
  if len % blockBytes w = 0 then .next (goto .ksel s) else raise .arg s

/-- `STOREP` (R107). -/
def execStorep (s : State) : Result :=
  need .len s.len fun len =>
  need .buf (readBytes s.buf 0 len) fun bytes =>
  deliver bytes s

end Sys2Proof.Machine
end

