-- ==== Sys2Proof/Machine/Failure.lean ====
section
/-! DEFINITION. The two ends of a call. Spec: `60_exceptions.md` R215, R218. -/

namespace Sys2Proof.Machine

/-- `FINISH` (R218). -/
def execFinish (s : State) : Result := .next (finishCall s)

/-- `FAIL` (R215), on the kind that `raise` handed over. -/
def execFail (s : State) : Result := need .kind s.kind fun e => .next (failCall e s)

end Sys2Proof.Machine
end

