-- ==== Sys2Proof/Machine/KeySchedule.lean ====
section
/-! DEFINITION. The key schedule engine. Spec: `42_key_schedule.md`. -/

namespace Sys2Proof.Machine

/-- `KPACK` (R135). -/
def execKpack (s : State) : Result :=
  need .w s.w fun w =>
  need .blen s.blen fun b =>
  need .key (readBytes s.key 0 b) fun bytes =>
  .next (goto .sinit { s with l := packKey w bytes })

/-- `SINIT` (R137). -/
def execSinit (s : State) : Result :=
  need .w s.w fun w =>
  need .r s.r fun r =>
  need .p s.p fun p =>
  need .q s.q fun q =>
  .next (goto .kmix0 { s with sch := progression w q (scheduleLength r) p })

/-- `KMIX0` (R139). -/
def execKmix0 (s : State) : Result :=
  .next (goto .kmix { s with ka := some 0, kb := some 0, i := some 0, j := some 0, n := some 0 })

/-- `KMIX` (R140), one iteration; the last one, number `m`, ends the key schedule (R141). -/
def execKmix (s : State) : Result :=
  need .w s.w fun w =>
  need .r s.r fun r =>
  need .blen s.blen fun b =>
  need .ka s.ka fun ka =>
  need .kb s.kb fun kb =>
  need .i s.i fun i =>
  need .j s.j fun j =>
  need .n s.n fun n =>
  need .sch s.sch[i]? fun si =>
  need .l s.l[j]? fun lj =>
  let v := mixS s.cfg w si ka kb
  let q := mixL s.cfg w lj v kb
  let s1 :=
    { s with
      sch := s.sch.set i v, l := s.l.set j q, ka := some v, kb := some q,
      i := some ((i + 1) % scheduleLength r), j := some ((j + 1) % keyWords w b), n := some (n + 1) }
  if n + 1 < mixCount w r b then .next (goto .kmix s1) else afterSchedule s1

end Sys2Proof.Machine
end

