-- ==== Sys2Proof/Machine/Padding.lean ====
section
/-! DEFINITION. The padding and unpadding unit. Spec: `45_padding.md`. -/

namespace Sys2Proof.Machine

/-- `PAD` (R185): nothing is appended to an aligned buffer; then the block loop begins (R100). -/
def execPad (s : State) : Result :=
  need .desc s.desc fun d =>
  need .w s.w fun w =>
  need .len s.len fun len =>
  let p := padCount (blockBytes w) len
  inSpace .buf (fits s.cfg.bufCap (len + p)) <|
  .next (startBlocks d.op w (len + p)
    { s with
      buf := writeBytes s.buf len (List.replicate p (BitVec.ofNat 8 p)), len := some (len + p) })

/-- How many bytes `UNPAD` strips, given the trailing byte `q` (R188).  DEDUCED (log 12): the guard `q ≤ LEN`,
which R190 asks of a model that runs `UNPAD` on a buffer of any length. -/
def unpadCount (bs len q : Nat) : Nat := if 1 ≤ q ∧ q ≤ bs ∧ q ≤ len then q else 0

/-- `UNPAD` (R188): lenient; only `LEN` changes, and the stripped bytes are not cleared. -/
def execUnpad (s : State) : Result :=
  need .w s.w fun w =>
  need .len s.len fun len =>
  if len = 0 then .next (goto .storep s)
  else
    need .buf (s.buf.read (len - 1)) fun q =>
    .next (goto .storep { s with len := some (len - unpadCount (blockBytes w) len q.toNat) })

end Sys2Proof.Machine
end

