-- ==== Sys2Proof/Machine/Serial.lean ====
section
/-! DEFINITION. The hexadecimal adapter. Spec: `46_serialisation.md`. -/

namespace Sys2Proof.Machine

/-- `HEXENC` (R195): uppercase, buffer byte order, high nibble first. -/
def execHexenc (s : State) : Result :=
  need .len s.len fun len =>
  need .buf (readBytes s.buf 0 len) fun bytes =>
  deliver (hexEncode bytes) s

/-- `HEXDEC` (R198).  DEDUCED (log 13): of a string longer than `INMEM` the characters that were latched are the ones
checked, and it is then refused with `E_ARG` (R76). -/
def execHexdec (s : State) : Result :=
  need .desc s.desc fun d =>
  if d.pIn.toNat % 2 = 0 && allDigits s.cfg.hexInCase d.payload then
    if fits s.cfg.bufCap (d.pIn.toNat / 2) then
      need .payload (takeExact d.payload d.pIn.toNat) fun chars =>
      need .payload (hexDecode s.cfg.hexInCase chars) fun bytes =>
      .next (goto .lenchk { s with buf := writeBytes s.buf 0 bytes, len := some (d.pIn.toNat / 2) })
    else raise .arg s
  else raise .hexFormat s

end Sys2Proof.Machine
end

