-- ==== Sys2Proof/Machine/Validation.lean ====
section
/-! DEFINITION. Parameter validation and constant selection. Spec: `41_validation_constants.md`. -/

namespace Sys2Proof.Machine

/-- `VALIDATE` (R120 to R123): the first check that fails is the one reported. -/
def execValidate (s : State) : Result :=
  need .desc s.desc fun d =>
  match wordSizeOf d.wReq.toInt with
  | none => raise .wordSize s
  | some w =>
    if roundsOk d.rReq.toInt then
      if keyLenOk d.bIn.toNat then
        need .keyLatch (takeExact d.key d.bIn.toNat) fun bytes =>
        .next (goto (loadPhase d.op)
          { s with
            w := some w, r := some d.rReq.toInt.toNat, blen := some d.bIn.toNat,
            key := writeBytes s.key 0 bytes })
      else raise .keyLen s
    else raise .rounds s

/-- `KSEL` (R124). -/
def execKsel (s : State) : Result :=
  need .w s.w fun w =>
  let pq := magicOf s.cfg.magic w
  .next (goto .kpack { s with p := some pq.p, q := some pq.q })

end Sys2Proof.Machine
end

