-- ==== Sys2Proof/Machine/Dispatch.lean ====
section
/-! DEFINITION. One arm per constructor of `Instr`, each one call of its meaning. -/

namespace Sys2Proof.Machine

/-- The meaning of an instruction. -/
def exec (i : Instr) (s : State) : Host.Outcome State Fault Refusal :=
  match i with
  -- format C, host commands
  | .encrypt => Sys2Proof.Machine.execEncrypt s
  | .decrypt => Sys2Proof.Machine.execDecrypt s
  | .encBytes => Sys2Proof.Machine.execEncBytes s
  | .decBytes => Sys2Proof.Machine.execDecBytes s
  -- format U, micro-operations
  | .idle => Sys2Proof.Machine.execIdle s
  | .validate => Sys2Proof.Machine.execValidate s
  | .ksel => Sys2Proof.Machine.execKsel s
  | .kpack => Sys2Proof.Machine.execKpack s
  | .sinit => Sys2Proof.Machine.execSinit s
  | .kmix0 => Sys2Proof.Machine.execKmix0 s
  | .kmix => Sys2Proof.Machine.execKmix s
  | .loadp => Sys2Proof.Machine.execLoadp s
  | .hexdec => Sys2Proof.Machine.execHexdec s
  | .lenchk => Sys2Proof.Machine.execLenchk s
  | .pad => Sys2Proof.Machine.execPad s
  | .blkld => Sys2Proof.Machine.execBlkld s
  | .enc0 => Sys2Proof.Machine.execEnc0 s
  | .enca => Sys2Proof.Machine.execEnca s
  | .encb => Sys2Proof.Machine.execEncb s
  | .blkst => Sys2Proof.Machine.execBlkst s
  | .decb => Sys2Proof.Machine.execDecb s
  | .deca => Sys2Proof.Machine.execDeca s
  | .dec0 => Sys2Proof.Machine.execDec0 s
  | .unpad => Sys2Proof.Machine.execUnpad s
  | .hexenc => Sys2Proof.Machine.execHexenc s
  | .storep => Sys2Proof.Machine.execStorep s
  | .finish => Sys2Proof.Machine.execFinish s
  | .fail => Sys2Proof.Machine.execFail s

end Sys2Proof.Machine
end

