-- ==== Sys2Proof/Machine/HostPort.lean ====
section
/-! DEFINITION. The transaction-level interface of HOST: its register and window accesses and the reset input.
Spec: `00_scope.md` R10; `10_state.md` R44, R45; `20_memory.md` R68, R69, R71; `70_reset_and_hazards.md` R240, R241, R243,
R248. -/

namespace Sys2Proof.Machine

/-- The register number (R44). -/
def hostRegNumber : HostReg → Nat
  | .cmd => 0
  | .status => 1
  | .errcode => 2
  | .wIn => 3
  | .rIn => 4
  | .klenIn => 5
  | .plenIn => 6
  | .olen => 7

/-- Where the register of number 0, `CMD`, sits on a bus, if the engine is placed on one (R10, R44, R69).  The spacing of the
others is the platform's (log 21). -/
def registerZeroAddress (c : Config) : Option Nat := c.regBase.map (·.reg0)

/-- Where byte `k` of a window sits on a bus, if the engine is placed on one (R10, R45, R69).  DEDUCED (log 21): the bytes of
a "byte-addressed" window follow one another. -/
def windowAddress (c : Config) (win : Window) (k : Nat) : Option Nat :=
  c.regBase.map fun base =>
    (match win with
    | .keymem => base.keymem
    | .inmem => base.inmem
    | .outmem => base.outmem) + k

/-- What a register holds for HOST (R44): `CMD` reads as 0. -/
def hostRegValue (s : State) : HostReg → BitVec 32
  | .cmd => 0#32
  | .status => (statusReg s).setWidth 32
  | .errcode => s.errcode.setWidth 32
  | .wIn => s.wIn
  | .rIn => s.rIn
  | .klenIn => s.klenIn
  | .plenIn => s.plenIn
  | .olen => s.olen

/-- The width of a register in bits (R44). -/
def hostRegWidth : HostReg → Nat
  | .cmd | .status | .errcode => 8
  | .wIn | .rIn | .klenIn | .plenIn | .olen => 32

/-- The registers whose read is answered with their value at any time: `STATUS` (R71, R248); and, DEDUCED (log 19), `CMD`, which
"reads as 0", and the input registers, which "read back what was written" (R44), although R71 keeps HOST from reading them
while `BUSY = 1` (`MoveAllowed`).  The other two hold outputs, of which U15 says that a read while `BUSY = 1` returns any
value. -/
def alwaysReadable : HostReg → Bool
  | .cmd | .status | .wIn | .rIn | .klenIn | .plenIn => true
  | .errcode | .olen => false

/-- A read of `width` bits that returns any value (U15, U16): a free value, the same one until a step is taken that can
change an output (R68, log 6). -/
def readAnyValue (m : HostMove) (width : Nat) (s : State) : State :=
  { s with rdata := ((Config.freeRead s.fresh m).setWidth width).setWidth 32 }

/-- HOST reads a register (R44, R68); while `BUSY = 1` an output register has any value (U15). -/
def hostReadReg (r : HostReg) (s : State) : Result :=
  if s.busy && !alwaysReadable r then .next (readAnyValue (.readReg r) (hostRegWidth r) s)
  else .next { s with rdata := hostRegValue s r }

/-- HOST writes an input register (R44): "no effect other than storing the value".  The model notes what was supplied (R243,
log 24). -/
def hostWriteReg (r : InReg) (v : BitVec 32) (s : State) : Result :=
  if s.busy then .refused .hostWriteWhileBusy
  else
    match r with
    | .wIn => .next { s with wIn := v, supply := { s.supply with wIn := some v } }
    | .rIn => .next { s with rIn := v, supply := { s.supply with rIn := some v } }
    | .klenIn => .next { s with klenIn := v, supply := { s.supply with klenIn := some v } }
    | .plenIn => .next { s with plenIn := v, supply := { s.supply with plenIn := some v } }

/-- HOST writes a byte of `KEYMEM` (R45). -/
def hostWriteKeymem (k : Nat) (v : Byte) (s : State) : Result :=
  if s.busy then .refused .hostWriteWhileBusy
  else
    inSpace .keymem (fits (windowCap s.cfg .keymem) (k + 1))
      (.next
        { s with
          keymem := s.keymem.write k v, supply := { s.supply with key := s.supply.key.write k v } })

/-- HOST writes a byte of `INMEM` (R45). -/
def hostWriteInmem (k : Nat) (v : Byte) (s : State) : Result :=
  if s.busy then .refused .hostWriteWhileBusy
  else
    inSpace .inmem (fits (windowCap s.cfg .inmem) (k + 1))
      (.next
        { s with
          inmem := s.inmem.write k v, supply := { s.supply with payload := s.supply.payload.write k v } })

/-- HOST reads a byte of `OUTMEM` (R45): the result's bytes are `OUTMEM[0 .. OLEN)`; any other byte, and every byte
during a call, is any value (R51, R256, U15, U16). -/
def hostReadOutmem (k : Nat) (s : State) : Result :=
  inSpace .outmem (fits (windowCap s.cfg .outmem) (k + 1)) <|
  if s.busy || decide (s.olen.toNat ≤ k) then .next (readAnyValue (.readOutmem k) 8 s)
  else
    match s.outmem.read k with
    | some v => .next { s with rdata := v.setWidth 32 }
    | none => .next (readAnyValue (.readOutmem k) 8 s)

/-- The reset input (R240, R241): the state of R50, a call in progress abandoned.  The configuration is "fixed
content" (R242); the model's own fields go on, and one more reset is counted (log 5). -/
def hostReset (s : State) : State :=
  { State.reset with
    cfg := s.cfg, host := s.host, rdata := s.rdata, epoch := s.epoch + 1, fresh := s.fresh }

end Sys2Proof.Machine
end

