-- ==== Sys2Proof/Machine/Fetch.lean ====
section
/-! DEFINITION. What a step runs: the micro-operation `PH` names, the command a `CMD` write carries, or another
move of HOST. The engine fetches no instruction from memory (R40). Spec: `10_state.md` R40, R41; `40_commands.md`
R106; `20_memory.md` R70, R71. -/

namespace Sys2Proof.Machine

/-- ENGINE performs the micro-operation whose code `PH` holds (R41); a reserved code has no step (U14).
A micro-operation of a call is counted (log 6). -/
def engineStep (s : State) : Result :=
  match decodePhase s.ph with
  | .ok i => exec i (tick s.busy.toNat s)
  | .error _ => .fault (.reservedPhase s.ph)

/-- A write of `v` to `CMD` (R106): a command runs; an illegal value is taken by `IDLE`, which raises `E_ARG` (R90,
R211). -/
def commandStep (v : BitVec 8) (s : State) : Result :=
  match decodeCommand v with
  | .ok i => exec i { s with cmd := some v }
  | .error _ => exec .idle { s with cmd := some v }

/-- One move of HOST.  A reset and a `CMD` write are counted (log 6). -/
def moveStep (m : HostMove) (s : State) : Result :=
  match m with
  | .run => engineStep s
  | .reset => .next (hostReset (tick 1 s))
  | .writeCmd v => commandStep v (tick 1 s)
  | .writeReg r v => hostWriteReg r v s
  | .readReg r => hostReadReg r s
  | .writeKeymem k v => hostWriteKeymem k v s
  | .writeInmem k v => hostWriteInmem k v s
  | .readOutmem k => hostReadOutmem k s

/-- Put a code where the next step finds it: a command as the next move of HOST, a micro-operation in `PH` with the
next turn given to ENGINE. -/
def placeCode (c : Code) (s : State) : State :=
  match c.format with
  | .command => { s with host := .writeCmd c.bits :: s.host }
  | .phase => { s with ph := c.bits.setWidth 5, host := .run :: s.host }

end Sys2Proof.Machine
end

