-- ==== Sys2Proof/Machine/Invariant.lean ====
section
/-! DEFINITION. The invariant of the machine: the flags, the canonical form of every memory, and for each phase which
registers and array entries hold a value and in what range. It is R49's derivation made checkable: in a state that meets
it no micro-operation reads a place that holds no value. Spec: `10_state.md` R32 to R43, R48, R49; `42_key_schedule.md`
R143; `43_block_encrypt.md` R164; `45_padding.md` R187, R190; `70_reset_and_hazards.md` R243, R248. -/

namespace Sys2Proof.Machine

/-- Every entry is a `w`-bit word (R48). -/
def wordsBounded (w : WordSize) (xs : List Nat) : Prop := ∀ x ∈ xs, x < 2 ^ w.bits

/-- The bytes `0 .. n - 1` hold values. -/
def filled (m : Memory) (n : Nat) : Prop := ∀ k, k < n → (Memory.read m k).isSome = true

/-- What latching gives (R249): the key bytes and payload bytes there is room for. -/
def descOk (c : Config) (d : Descriptor) : Prop :=
  d.key.length = min d.bIn.toNat 255 ∧ d.payload.length = payloadFit c d.pIn.toNat

/-- `W`, `R`, `BLEN`, `KEY` hold values in range (R32, R34). -/
def hasParams (s : State) (w : WordSize) (r b : Nat) : Prop :=
  s.w = some w ∧ s.r = some r ∧ r ≤ 255 ∧ s.blen = some b ∧ b ≤ 255 ∧ filled s.key b

/-- `BUF[0 .. LEN)` holds values and fits (R39). -/
def hasBuf (s : State) (len : Nat) : Prop :=
  s.len = some len ∧ fits s.cfg.bufCap len = true ∧ filled s.buf len

/-- Before the block transforms: room for the padding on the encrypt side (R102), whole blocks on the decrypt side
(R103). -/
def bufReady (s : State) (op : Op) (w : WordSize) (len : Nat) : Prop :=
  if encrypts op then fits s.cfg.bufCap (len + (blockBytes w - 1)) = true else len % blockBytes w = 0

/-- `P`, `Q` hold words (R33). -/
def hasConstants (s : State) (w : WordSize) : Prop :=
  ∃ p q, s.p = some p ∧ s.q = some q ∧ p < 2 ^ w.bits ∧ q < 2 ^ w.bits

/-- `L` holds its `c` words (R34). -/
def hasKeyWords (s : State) (w : WordSize) (b : Nat) : Prop :=
  s.l.length = keyWords w b ∧ wordsBounded w s.l

/-- `S` holds its `t` words (R35). -/
def hasSchedule (s : State) (w : WordSize) (r : Nat) : Prop :=
  s.sch.length = scheduleLength r ∧ wordsBounded w s.sch

/-- The five key-mix registers hold values in range, and the indices follow the count (R36, R142, R143). -/
def hasMix (s : State) (w : WordSize) (r b : Nat) : Prop :=
  ∃ ka kb n, s.ka = some ka ∧ s.kb = some kb ∧ s.n = some n ∧ ka < 2 ^ w.bits ∧ kb < 2 ^ w.bits ∧
    n < mixCount w r b ∧ s.i = some (n % scheduleLength r) ∧ s.j = some (n % keyWords w b)

/-- In the block loop: whole blocks, and `BLK` the number of one of them (R38, R64). -/
def hasBlock (s : State) (w : WordSize) (len : Nat) : Prop :=
  len % blockBytes w = 0 ∧ ∃ blk, s.blk = some blk ∧ blk < len / blockBytes w

/-- `A`, `B` hold words (R37). -/
def hasPair (s : State) (w : WordSize) : Prop :=
  ∃ a b, s.a = some a ∧ s.b = some b ∧ a < 2 ^ w.bits ∧ b < 2 ^ w.bits

/-- `RC` is the number of a round (R38, R164). -/
def hasRound (s : State) (r : Nat) : Prop := ∃ i, s.rc = some i ∧ 1 ≤ i ∧ i ≤ r

/-- What holds when a micro-operation of a call with descriptor `d` is next, for those after the payload is loaded;
`f` says what it needs beyond the parameters and the buffer. -/
def loaded (s : State) (f : WordSize → Nat → Nat → Nat → Prop) : Prop :=
  ∃ w r b len, hasParams s w r b ∧ hasBuf s len ∧ f w r b len

/-- What holds when each micro-operation is next (R49): the operands of its rule and of every later rule of the call
hold values. -/
def stage (s : State) (d : Descriptor) : Instr → Prop
  | .encrypt | .decrypt | .encBytes | .decBytes | .idle | .fail => False
  | .validate => True
  | .loadp => d.op ≠ .decrypt ∧ ∃ w r b, hasParams s w r b
  | .hexdec => d.op = .decrypt ∧ ∃ w r b, hasParams s w r b
  | .lenchk => encrypts d.op = false ∧ loaded s fun _ _ _ _ => True
  | .ksel => loaded s fun w _ _ len => bufReady s d.op w len
  | .kpack => loaded s fun w _ _ len => bufReady s d.op w len ∧ hasConstants s w
  | .sinit => loaded s fun w _ b len => bufReady s d.op w len ∧ hasConstants s w ∧ hasKeyWords s w b
  | .kmix0 => loaded s fun w r b len => bufReady s d.op w len ∧ hasKeyWords s w b ∧ hasSchedule s w r
  | .kmix => loaded s fun w r b len =>
      bufReady s d.op w len ∧ hasKeyWords s w b ∧ hasSchedule s w r ∧ hasMix s w r b
  | .pad => encrypts d.op = true ∧ loaded s fun w r _ len => bufReady s d.op w len ∧ hasSchedule s w r
  | .blkld => loaded s fun w r _ len => hasSchedule s w r ∧ hasBlock s w len
  | .enc0 => encrypts d.op = true ∧
      loaded s fun w r _ len => hasSchedule s w r ∧ hasBlock s w len ∧ hasPair s w
  | .enca | .encb => encrypts d.op = true ∧
      loaded s fun w r _ len => hasSchedule s w r ∧ hasBlock s w len ∧ hasPair s w ∧ hasRound s r
  | .decb | .deca => encrypts d.op = false ∧
      loaded s fun w r _ len => hasSchedule s w r ∧ hasBlock s w len ∧ hasPair s w ∧ hasRound s r
  | .dec0 => encrypts d.op = false ∧
      loaded s fun w r _ len => hasSchedule s w r ∧ hasBlock s w len ∧ hasPair s w
  | .blkst => loaded s fun w r _ len => hasSchedule s w r ∧ hasBlock s w len ∧ hasPair s w
  | .unpad => encrypts d.op = false ∧ loaded s fun w _ _ len => len % blockBytes w = 0
  | .hexenc => d.op = .encrypt ∧ loaded s fun _ _ _ _ => True
  | .storep => d.op ≠ .encrypt ∧ loaded s fun _ _ _ _ => True
  | .finish => filled s.outmem s.olen.toNat

/-- The part of the invariant that depends on the phase: outside a call nothing internal holds a value (R51); at
`FAIL` a failure kind has been handed over (R215); inside a call, `stage`. -/
def phaseInv (s : State) : Prop :=
  match decodePhase s.ph with
  | .error _ => False
  | .ok .idle => s.desc = none ∧ s.kind = none ∧ clearInternal s = s
  | .ok .fail => s.kind.isSome = true
  | .ok i => s.kind = none ∧ ∃ d, s.desc = some d ∧ descOk s.cfg d ∧ stage s d i

/-- What HOST supplied is what the input registers and windows hold (R44, R45), and nothing is supplied during a call (R243,
R248). -/
def supplyInv (s : State) : Prop :=
  Memory.wf s.supply.key = true ∧ Memory.wf s.supply.payload = true ∧
    (∀ v, s.supply.wIn = some v → s.wIn = v) ∧ (∀ v, s.supply.rIn = some v → s.rIn = v) ∧
    (∀ v, s.supply.klenIn = some v → s.klenIn = v) ∧ (∀ v, s.supply.plenIn = some v → s.plenIn = v) ∧
    (∀ k v, Memory.read s.supply.key k = some v → Memory.read s.keymem k = some v) ∧
    (∀ k v, Memory.read s.supply.payload k = some v → Memory.read s.inmem k = some v) ∧
    (s.busy = true → s.supply = .nothing)

/-- The invariant. -/
structure Inv (s : State) : Prop where
  /-- The configuration is legal (R9, R10). -/
  config : s.cfg.wf = true
  /-- Every memory is in canonical form. -/
  memories : Memory.wf s.keymem = true ∧ Memory.wf s.inmem = true ∧ Memory.wf s.outmem = true ∧
    Memory.wf s.key = true ∧ Memory.wf s.buf = true
  /-- A `CMD` write is taken at once (R106). -/
  command : s.cmd = none
  /-- `PH = IDLE` exactly outside a call (R41, R42). -/
  busyPhase : s.busy = true ↔ s.ph ≠ 0#5
  /-- "At most one of the three is `1`" (R42). -/
  oneFlag : (s.busy = true → s.done = false ∧ s.err = false) ∧ (s.done = true → s.err = false)
  /-- `ERRCODE` is a failure kind's code when `ERR = 1`, and 0 otherwise (R43, R84). -/
  errorCode : if s.err then ∃ e, s.errcode = failCode e else s.errcode = 0#8
  /-- A result is there after a successful call, and only then (R51). -/
  result : if s.done then filled s.outmem s.olen.toNat else s.busy = false → s.olen = 0#32
  /-- What the phase needs (R49). -/
  phase : phaseInv s
  /-- What HOST has supplied for the next call (R243). -/
  supply : supplyInv s

end Sys2Proof.Machine
end

