-- ==== Sys2Proof/Machine/Reference.lean ====
section
/-! DEFINITION. The composites of the spec as functions of their inputs: the key schedule, the two block transforms,
the padding unit, the byte-level and text-level operations, and the result of a whole call. The machine runs
none of these; the statements compare it with them. Spec: `42_key_schedule.md` R141; `43_block_encrypt.md` R160,
R163; `44_block_decrypt.md` R173, R176; `45_padding.md` R185, R188; `40_commands.md` R100 to R105. -/

namespace Sys2Proof.Machine

/-! ### KEXP (R141) -/

/-- What the mixing loop carries from one iteration to the next. -/
structure Mix where
  s  : List Nat
  l  : List Nat
  ka : Nat
  kb : Nat
  i  : Nat
  j  : Nat
  deriving DecidableEq, Repr

/-- One pass of the loop of R141. -/
def mixPass (c : Config) (w : WordSize) (x : Mix) : Mix :=
  let v := mixS c w (x.s.getD x.i 0) x.ka x.kb
  let q := mixL c w (x.l.getD x.j 0) v x.kb
  { s := x.s.set x.i v, l := x.l.set x.j q, ka := v, kb := q,
    i := (x.i + 1) % x.s.length, j := (x.j + 1) % x.l.length }

/-- `repeat n times`. -/
def mixLoop (c : Config) (w : WordSize) : Nat → Mix → Mix
  | 0, x => x
  | n + 1, x => mixLoop c w n (mixPass c w x)

/-- `SINIT` for a word size and a round count: the progression of R137 from `P_w`, with the step `Q_w`. -/
def initialSchedule (c : Config) (w : WordSize) (r : Nat) : List Nat :=
  progression w (magicOf c.magic w).q (scheduleLength r) (magicOf c.magic w).p

/-- `KEXP(w, r, key)` (R141). -/
def keySchedule (c : Config) (w : WordSize) (r : Nat) (key : List Byte) : List Nat :=
  (mixLoop c w (mixCount w r key.length)
    { s := initialSchedule c w r, l := packKey w key, ka := 0, kb := 0, i := 0, j := 0 }).s

/-! ### The block transforms (R160, R173) -/

/-- One encryption round: `ENCA`, then `ENCB` on the new `A`. -/
def encRound (w : WordSize) (sch : List Nat) (i : Nat) (x : Nat × Nat) : Nat × Nat :=
  let a := encHalf w x.1 x.2 (sch.getD (2 * i) 0)
  (a, encHalf w x.2 a (sch.getD (2 * i + 1) 0))

/-- One decryption round: `DECB`, then `DECA` on the new `B`. -/
def decRound (w : WordSize) (sch : List Nat) (i : Nat) (x : Nat × Nat) : Nat × Nat :=
  let b := decHalf w x.2 x.1 (sch.getD (2 * i + 1) 0)
  (decHalf w x.1 b (sch.getD (2 * i) 0), b)

/-- The rounds `1 .. r`, ascending. -/
def encRounds (w : WordSize) (sch : List Nat) : Nat → Nat × Nat → Nat × Nat
  | 0, x => x
  | r + 1, x => encRound w sch (r + 1) (encRounds w sch r x)

/-- The rounds `r .. 1`, descending. -/
def decRounds (w : WordSize) (sch : List Nat) : Nat → Nat × Nat → Nat × Nat
  | 0, x => x
  | r + 1, x => decRounds w sch r (decRound w sch (r + 1) x)

/-- `ENCBLK` as a function of the two words (R160). -/
def encBlock (w : WordSize) (r : Nat) (sch : List Nat) (x : Nat × Nat) : Nat × Nat :=
  encRounds w sch r (addW w x.1 (sch.getD 0 0), addW w x.2 (sch.getD 1 0))

/-- `DECBLK` as a function of the two words (R173). -/
def decBlock (w : WordSize) (r : Nat) (sch : List Nat) (x : Nat × Nat) : Nat × Nat :=
  let y := decRounds w sch r x
  (subW w y.1 (sch.getD 0 0), subW w y.2 (sch.getD 1 0))

/-- A block transform on the bytes of a block: `A` is the first half-block, little-endian (R62). -/
def onBytes (w : WordSize) (f : Nat × Nat → Nat × Nat) (block : List Byte) : List Byte :=
  let u := wordBytes w
  let y := f (leWord (block.take u), leWord ((block.drop u).take u))
  leBytes u y.1 ++ leBytes u y.2

/-- `n` blocks of `bs` bytes, each transformed on its own, in ascending order (R66, R163). -/
def mapBlocks (bs : Nat) (f : List Byte → List Byte) : Nat → List Byte → List Byte
  | 0, _ => []
  | n + 1, xs => f (xs.take bs) ++ mapBlocks bs f n (xs.drop bs)

/-- `ENCALL` (R163). -/
def encAll (w : WordSize) (r : Nat) (sch : List Nat) (xs : List Byte) : List Byte :=
  mapBlocks (blockBytes w) (onBytes w (encBlock w r sch)) (xs.length / blockBytes w) xs

/-- `DECALL` (R176). -/
def decAll (w : WordSize) (r : Nat) (sch : List Nat) (xs : List Byte) : List Byte :=
  mapBlocks (blockBytes w) (onBytes w (decBlock w r sch)) (xs.length / blockBytes w) xs

/-! ### Padding (R185, R188) -/

/-- `PAD` as a function of the buffer. -/
def padBytes (bs : Nat) (xs : List Byte) : List Byte :=
  xs ++ List.replicate (padCount bs xs.length) (BitVec.ofNat 8 (padCount bs xs.length))

/-- `UNPAD` as a function of the buffer. -/
def unpadBytes (bs : Nat) (xs : List Byte) : List Byte :=
  match xs.getLast? with
  | none => xs
  | some q => xs.take (xs.length - unpadCount bs xs.length q.toNat)

/-! ### The operations (R100 to R105) -/

/-- `enc_bytes` for accepted parameters (R104). -/
def encBytesOf (c : Config) (w : WordSize) (r : Nat) (key xs : List Byte) : List Byte :=
  encAll w r (keySchedule c w r key) (padBytes (blockBytes w) xs)

/-- `dec_bytes` for accepted parameters and an aligned ciphertext (R105). -/
def decBytesOf (c : Config) (w : WordSize) (r : Nat) (key xs : List Byte) : List Byte :=
  unpadBytes (blockBytes w) (decAll w r (keySchedule c w r key) xs)

/-- The parameters `VALIDATE` accepts, or the failure it reports (R120, R213). -/
def checkParams (d : Descriptor) : Except FailKind (WordSize × Nat) :=
  match wordSizeOf d.wReq.toInt with
  | none => .error .wordSize
  | some w =>
    if roundsOk d.rReq.toInt then
      if keyLenOk d.bIn.toNat then .ok (w, d.rReq.toInt.toNat) else .error .keyLen
    else .error .rounds

/-- The bytes in the buffer when the block transforms may begin, before padding, or the failure of `LOADP`, `HEXDEC`
or `LENCHK` (R102, R103, R198, R213). -/
def loadedBytes (c : Config) (w : WordSize) (d : Descriptor) : Except FailKind (List Byte) :=
  match d.op with
  | .encrypt | .encBytes =>
    if fits (loadLimit c w d.op) d.pIn.toNat then .ok d.payload else .error .arg
  | .decBytes =>
    if fits (loadLimit c w d.op) d.pIn.toNat then
      if d.pIn.toNat % blockBytes w = 0 then .ok d.payload else .error .arg
    else .error .arg
  | .decrypt =>
    if d.pIn.toNat % 2 = 0 && allDigits c.hexInCase d.payload then
      if fits c.bufCap (d.pIn.toNat / 2) then
        if d.pIn.toNat / 2 % blockBytes w = 0 then
          match hexDecode c.hexInCase d.payload with
          | some xs => .ok xs
          | none => .error .hexFormat
        else .error .arg
      else .error .arg
    else .error .hexFormat

/-- The outcome of a call, `ok(result bytes)` or `fail(kind)`, as a function of its descriptor and of the
configuration alone (R80, R110). -/
def callResult (c : Config) (d : Descriptor) : Except FailKind (List Byte) :=
  match checkParams d with
  | .error e => .error e
  | .ok (w, r) =>
    match loadedBytes c w d with
    | .error e => .error e
    | .ok xs =>
      match d.op with
      | .encrypt => .ok (hexEncode (encBytesOf c w r d.key xs))
      | .encBytes => .ok (encBytesOf c w r d.key xs)
      | .decrypt | .decBytes => .ok (decBytesOf c w r d.key xs)

/-! ### Text, as HOST converts it (R200 to R202) -/

/-- HOST's conversions: `utf8`, total, and `utf8_decode`, an open parameter (R10) of which only `lossless` is
known: "`utf8_decode(utf8(text)) = text`" (R201).  These are HOST's, not state of the engine. -/
structure TextCodec (Text : Type) where
  utf8       : Text → List Byte
  utf8Decode : List Byte → Text
  lossless   : ∀ x, utf8Decode (utf8 x) = x

/-- `encrypt(w, r, text, key)` for accepted parameters (R91, R104, R200, R202). -/
def encryptText {Text : Type} (k : TextCodec Text) (c : Config) (w : WordSize) (r : Nat) (text key : Text) :
    List Byte :=
  hexEncode (encBytesOf c w r (k.utf8 key) (k.utf8 text))

/-- `decrypt(w, r, hex_ciphertext, key)` for accepted parameters and a string that decodes (R91, R105, R201). -/
def decryptText {Text : Type} (k : TextCodec Text) (c : Config) (w : WordSize) (r : Nat) (hex : List Byte)
    (key : Text) : Option Text :=
  (hexDecode c.hexInCase hex).map fun xs => k.utf8Decode (decBytesOf c w r (k.utf8 key) xs)

end Sys2Proof.Machine
end

