-- ==== Sys2Proof/Safety.lean ====
section
/-! DEFINITION. The terms the claims are stated in: runs, the end of a call, the phase codes of the table of R83 that
the claims name, and what HOST may do. -/

namespace Sys2Proof

open Sys2Proof.Machine

/-- `k` steps lead from `s` to `t`, none of them a fault or a refusal. -/
def Reaches (k : Nat) (s t : State) : Prop := Host.Core.run Sys2Proof.core k s = .next t

/-- No call is in progress (R41, R42). -/
def Quiescent (s : State) : Prop := s.ph = 0#5 ∧ s.busy = false

/-- The phase after the last block of a call: `HEXENC`, `STOREP` or `UNPAD` (R100, R101, R104, R105). -/
def lastPhase : Op → BitVec 5
  | .encrypt => 0x14#5
  | .encBytes => 0x15#5
  | .decrypt | .decBytes => 0x13#5

/-- The bytes of a window access or a buffer read outside `n` bytes from `lo` are the same. -/
def SameOutside (m m' : Memory) (lo n : Nat) : Prop :=
  ∀ k, (k < lo ∨ lo + n ≤ k) → Memory.read m' k = Memory.read m k

/-- A move ENGINE can take (R45, R71, R248): the byte exists, and no input is written while `BUSY = 1`. -/
def MoveLegal (s : State) (m : HostMove) : Prop :=
  m.wf s.cfg = true ∧
    (s.busy = true →
      match m with
      | .writeReg _ _ | .writeKeymem _ _ | .writeInmem _ _ => False
      | .run | .reset | .writeCmd _ | .readReg _ | .readOutmem _ => True)

/-- HOST has supplied the whole descriptor since the last call (R243): the four registers, the key bytes when `KLEN_IN` is at
most 255, and of the payload bytes those that exist in `INMEM` (log 24). -/
def Supplied (s : State) : Prop :=
  (∃ w r b p, s.supply.wIn = some w ∧ s.supply.rIn = some r ∧ s.supply.klenIn = some b ∧ s.supply.plenIn = some p) ∧
    (s.klenIn.toNat ≤ 255 → filled s.supply.key s.klenIn.toNat) ∧
    filled s.supply.payload (payloadFit s.cfg s.plenIn.toNat)

/-- A move HOST may make: one the engine can take; "While `BUSY = 1` HOST may read `STATUS` only" (R71, R248); and a call is
started only when its whole descriptor has been supplied (R243). -/
def MoveAllowed (s : State) (m : HostMove) : Prop :=
  MoveLegal s m ∧
    (s.busy = true →
      match m with
      | .readReg r => r = .status
      | .readOutmem _ => False
      | .run | .reset | .writeCmd _ | .writeReg _ _ | .writeKeymem _ _ | .writeInmem _ _ => True) ∧
    (s.busy = false →
      match m with
      | .writeCmd _ => Supplied s
      | .run | .reset | .writeReg _ _ | .readReg _ | .writeKeymem _ _ | .writeInmem _ _ | .readOutmem _ => True)

/-- The registers an instruction reads on every path, in the order in which its meaning asks for them (log 15).  Of arrays, and
of registers read in one case only, see the statement `UnwrittenReadsFault`. -/
def operands : Instr → List Loc
  | .encrypt | .decrypt | .encBytes | .decBytes | .idle | .kmix0 | .finish => []
  | .validate | .hexdec => [.desc]
  | .ksel => [.w]
  | .kpack => [.w, .blen]
  | .sinit => [.w, .r, .p, .q]
  | .kmix => [.w, .r, .blen, .ka, .kb, .i, .j, .n]
  | .loadp => [.desc, .w]
  | .lenchk | .unpad => [.w, .len]
  | .pad => [.desc, .w, .len]
  | .blkld => [.desc, .w, .len, .blk]
  | .enc0 => [.w, .r, .a, .b]
  | .enca | .decb | .deca => [.w, .a, .b, .rc]
  | .encb => [.w, .r, .a, .b, .rc]
  | .blkst => [.desc, .w, .len, .blk, .a, .b]
  | .dec0 => [.w, .a, .b]
  | .hexenc | .storep => [.len]
  | .fail => [.kind]

/-- A register holds no value (R49).  An array is no register; its entries are asked for one by one. -/
def lacks (s : State) : Loc → Bool
  | .desc => s.desc.isNone
  | .kind => s.kind.isNone
  | .w => s.w.isNone
  | .r => s.r.isNone
  | .blen => s.blen.isNone
  | .p => s.p.isNone
  | .q => s.q.isNone
  | .ka => s.ka.isNone
  | .kb => s.kb.isNone
  | .i => s.i.isNone
  | .j => s.j.isNone
  | .n => s.n.isNone
  | .a => s.a.isNone
  | .b => s.b.isNone
  | .rc => s.rc.isNone
  | .blk => s.blk.isNone
  | .len => s.len.isNone
  | .keyLatch | .payload | .key | .l | .sch | .buf | .outmem | .keymem | .inmem => false

/-- Every register the instruction reads holds a value. -/
def HasOperands (i : Instr) (s : State) : Prop := ∀ loc ∈ operands i, lacks s loc = false

/-- What HOST can observe of the end of a call (R51): the flags, `ERRCODE`, `OLEN`, and `OUTMEM[0 .. OLEN)`. -/
def SameOutcome (s t : State) : Prop :=
  statusReg s = statusReg t ∧ s.errcode = t.errcode ∧ s.olen = t.olen ∧
    ∀ k, k < s.olen.toNat → Memory.read s.outmem k = Memory.read t.outmem k

/-- The end state of a call as R51 gives it, for an outcome `ok(out)` or `fail(kind)`. -/
def EndsWith (t : State) : Except FailKind (List Byte) → Prop
  | .ok out => statusReg t = 0x02#8 ∧ t.errcode = 0#8 ∧
      (out.length < 2 ^ 32 → t.olen.toNat = out.length) ∧
      ∀ k, k < out.length → Memory.read t.outmem k = out[k]?
  | .error e => statusReg t = 0x04#8 ∧ t.errcode = failCode e ∧ t.olen = 0#32

end Sys2Proof
end

