-- ==== Sys2Proof/Certificates/Slice0/Obligations.lean ====
section
/-! DEFINITION. The statements for the provers. Each docstring names the rule of the spec it formalises. A statement whose
conclusion is `exec i s = .next …` gives the whole next state, so it is also the instruction's frame and its
completion: every field not named is unchanged. -/

open Sys2Proof Sys2Proof.Machine

/-! ### Reset, fetch, decode -/

/-- R50: the table of reset values, as far as it gives values; that the latched descriptor is gone as well is the
model's (log 16). -/
def Obligations.ResetStateIsIdleAndEmpty : Prop :=
  State.reset.ph = 0x00#5 ∧ statusReg State.reset = 0x00#8 ∧ State.reset.errcode = 0x00#8 ∧
    State.reset.olen = 0#32 ∧ hostRegValue State.reset .cmd = 0#32 ∧
    clearInternal State.reset = State.reset ∧ State.reset.desc = none

/-- R240, R241, R242 (10_state R50): the reset input gives the reset state from every state, also during a call, and leaves
`MAGIC` and the rest of the configuration alone.  That the reset is a move between micro-operations and leaves HOST's
coming moves is the model's choice (log 22), and so is `desc`, `kind` (log 16) and that nothing counts as supplied for the
next call (log 24). -/
def Obligations.ResetInputAbandonsTheCall : Prop :=
  ∀ (s : State) (rest : List HostMove), s.host = .reset :: rest →
    ∃ t, step s = .next t ∧ t.ph = 0x00#5 ∧ statusReg t = 0x00#8 ∧ t.errcode = 0x00#8 ∧ t.olen = 0#32 ∧
      hostRegValue t .cmd = 0#32 ∧ clearInternal t = t ∧ t.desc = none ∧ t.kind = none ∧ t.cfg = s.cfg ∧
      t.supply = .nothing ∧ t.host = rest

/-- R81, R83: some codes written out from the two tables. -/
def Obligations.WrittenCodesDecode : Prop :=
  decode ⟨.command, 0b00000001#8⟩ = .ok .encrypt ∧ decode ⟨.command, 0b00000100#8⟩ = .ok .decBytes ∧
    decode ⟨.phase, 0b00000#8⟩ = .ok .idle ∧ decode ⟨.phase, 0b00001#8⟩ = .ok .validate ∧
    decode ⟨.phase, 0b00110#8⟩ = .ok .kmix ∧ decode ⟨.phase, 0b01101#8⟩ = .ok .enca ∧
    decode ⟨.phase, 0b10000#8⟩ = .ok .decb ∧ decode ⟨.phase, 0b10111#8⟩ = .ok .fail

/-- R81, R83, R93: decoding the code of an instruction gives the instruction, and a code that decodes to an instruction
is that instruction's code. -/
def Obligations.DecodeEncodeRoundTrip : Prop :=
  (∀ i : Instr, i.wf = true → decode (encode i) = .ok i) ∧
    ∀ (c : Code) (i : Instr), decode c = .ok i → encode i = c

/-- R90: `0x01 .. 0x04` are the commands and every other `CMD` value is illegal; `0x18 .. 0x1F` are the reserved phase
codes, and a machine in one has no step. -/
def Obligations.IllegalAndReservedCodes : Prop :=
  (∀ v : BitVec 8, (∃ i, decodeCommand v = .ok i) ↔ 1 ≤ v.toNat ∧ v.toNat ≤ 4) ∧
    (∀ p : BitVec 5, (∃ i, decodePhase p = .ok i) ↔ p.toNat < 0x18) ∧
    ∀ s : State, s.host = [] → 0x18 ≤ s.ph.toNat → step s = .fault (.reservedPhase s.ph)

/-- R41, R81, R106: a step of ENGINE runs the micro-operation whose code `PH` holds, and a write of a command's value to `CMD`
runs the command.  That HOST's accesses stand in `host`, one step each, is the model's choice (log 3), and so is the count
`fresh` of the steps that can change an output (log 6). -/
def Obligations.StepRunsTheDecodedInstruction : Prop :=
  ∀ (s : State) (i : Instr),
    (decodePhase s.ph = .ok i →
      (s.host = [] → step s = exec i { s with fresh := s.fresh + s.busy.toNat }) ∧
        ∀ rest, s.host = .run :: rest → step s = exec i { s with host := rest, fresh := s.fresh + s.busy.toNat }) ∧
    ∀ (v : BitVec 8) (rest : List HostMove), s.host = .writeCmd v :: rest → decodeCommand v = .ok i →
      step s = exec i { s with host := rest, cmd := some v, fresh := s.fresh + 1 }

/-! ### Host commands and IDLE -/

/-- R106, with R249: the start of a call by each of the four commands, and by `IDLE` on a `CMD` value that is one; without a
`CMD` write `IDLE` changes nothing.  The fields `desc` and `kind` are the model's form of the latched descriptor
and of a raised failure (log 11, log 16); `supply`, what HOST has supplied for the next call, is the model's (log 24). -/
def Obligations.CommandStartsTheCall : Prop :=
  (∀ s : State, s.cmd = none → exec .idle s = .next s) ∧
  ∀ (s : State) (op : Op), s.busy = false →
    let started : State :=
      { s with
        done := false, err := false, errcode := 0#8, olen := 0#32, busy := true, cmd := none,
        desc := some (latch op s), kind := none,
        w := none, r := none, blen := none, p := none, q := none, key := [], l := [], sch := [],
        ka := none, kb := none, i := none, j := none, n := none, a := none, b := none,
        rc := none, blk := none, buf := [], len := none, supply := .nothing,
        ph := 0x01#5 }
    exec op.instr s = .next started ∧
      exec .idle { s with cmd := some (commandCode op) } = .next started

/-- R90, R106, R215: a call started by an illegal `CMD` value ends with `E_ARG`, nothing validated, nothing read.  That it takes
two steps is the model's choice (log 11). -/
def Obligations.IllegalCommandEndsWithArg : Prop :=
  ∀ (s : State) (v : BitVec 8), s.busy = false → (v.toNat = 0 ∨ 4 < v.toNat) → s.host = [.writeCmd v] →
    ∃ t, Reaches 2 s t ∧ EndsWith t (.error .arg) ∧ Quiescent t ∧ clearInternal t = t ∧ t.desc = none

/-- R248, R90: a write of `CMD` while `BUSY = 1` is ignored, whatever the value; `fresh` is the model's count of steps that
can change an output (log 6). -/
def Obligations.CommandWhileBusyIsIgnored : Prop :=
  ∀ (s : State) (v : BitVec 8) (rest : List HostMove),
    s.busy = true → s.host = .writeCmd v :: rest → step s = .next { s with host := rest, cmd := none, fresh := s.fresh + 1 }

/-- R249: what latching takes: the four registers, the first `min(b_in, 255)` bytes of `KEYMEM`, and of the `p_in` payload
bytes as many as fit; a byte HOST wrote is latched as written.  R243: where HOST may start the call, every register and
every byte latched is one that HOST supplied since the last call (how that is noted is the model's, log 24). -/
def Obligations.LatchTakesTheDescriptor : Prop :=
  ∀ (s : State) (op : Op),
    (latch op s).op = op ∧ (latch op s).wReq = s.wIn ∧ (latch op s).rReq = s.rIn ∧
      (latch op s).bIn = s.klenIn ∧ (latch op s).pIn = s.plenIn ∧
      (latch op s).key.length = min s.klenIn.toNat 255 ∧
      (latch op s).payload.length =
        (match s.cfg.bufCap with
        | none => s.plenIn.toNat
        | some cap => min s.plenIn.toNat (2 * cap)) ∧
      (∀ k v, k < (latch op s).key.length → Memory.read s.keymem k = some v → (latch op s).key[k]? = some v) ∧
      (∀ k v, k < (latch op s).payload.length → Memory.read s.inmem k = some v →
        (latch op s).payload[k]? = some v) ∧
      (Inv s → s.busy = false → MoveAllowed s (.writeCmd (commandCode op)) →
        s.supply.wIn = some (latch op s).wReq ∧ s.supply.rIn = some (latch op s).rReq ∧
        s.supply.klenIn = some (latch op s).bIn ∧ s.supply.plenIn = some (latch op s).pIn ∧
        (s.klenIn.toNat ≤ 255 → ∀ k, k < s.klenIn.toNat →
          (latch op s).key[k]? = Memory.read s.supply.key k ∧ (Memory.read s.supply.key k).isSome = true) ∧
        ∀ k, k < (latch op s).payload.length →
          (latch op s).payload[k]? = Memory.read s.supply.payload k ∧
            (Memory.read s.supply.payload k).isSome = true)

/-! ### Validation and constants -/

/-- R120 to R123: the three checks in their order, the failure each raises, and what is latched when all pass.  A failure is
the step to `FAIL` with the kind handed over (log 11). -/
def Obligations.ValidateChecksAndLatches : Prop :=
  ∀ (s : State) (d : Descriptor), s.desc = some d → d.key.length = min d.bIn.toNat 255 →
    (¬(d.wReq.toInt = 16 ∨ d.wReq.toInt = 32 ∨ d.wReq.toInt = 64) →
      exec .validate s = .next { s with kind := some .wordSize, ph := 0x17#5 }) ∧
    ∀ w : WordSize, d.wReq.toInt = w.bits →
      ((d.rReq.toInt < 0 ∨ 255 < d.rReq.toInt) →
        exec .validate s = .next { s with kind := some .rounds, ph := 0x17#5 }) ∧
      (0 ≤ d.rReq.toInt → d.rReq.toInt ≤ 255 →
        (255 < d.bIn.toNat → exec .validate s = .next { s with kind := some .keyLen, ph := 0x17#5 }) ∧
        (d.bIn.toNat ≤ 255 →
          ∃ key, exec .validate s = .next
              { s with
                w := some w, r := some d.rReq.toInt.toNat, blen := some d.bIn.toNat, key := key,
                ph := if d.op = .decrypt then 0x08#5 else 0x07#5 } ∧
            (∀ k, k < d.bIn.toNat → Memory.read key k = d.key[k]?) ∧
            SameOutside s.key key 0 d.bIn.toNat))

/-- R124: `KSEL` reads the pair of the word size from `MAGIC`. -/
def Obligations.KselReadsMagic : Prop :=
  ∀ (s : State) (w : WordSize), s.w = some w →
    exec .ksel s = .next
      { s with
        p := some (match w with
          | .w16 => s.cfg.magic.m16.p
          | .w32 => s.cfg.magic.m32.p
          | .w64 => s.cfg.magic.m64.p),
        q := some (match w with
          | .w16 => s.cfg.magic.m16.q
          | .w32 => s.cfg.magic.m32.q
          | .w64 => s.cfg.magic.m64.q),
        ph := 0x03#5 }

/-! ### Key schedule -/

/-- R135: `KPACK` writes `c = ceil(max(b,1)/u)` words, each the little-endian sum of its `u` key bytes, zero-filled. -/
def Obligations.KpackPacksLittleEndian : Prop :=
  ∀ (s : State) (w : WordSize) (b : Nat), s.w = some w → s.blen = some b → filled s.key b →
    ∃ l : List Nat,
      exec .kpack s = .next { s with l := l, ph := 0x04#5 } ∧
      (l.length - 1) * (w.bits / 8) < max b 1 ∧ max b 1 ≤ l.length * (w.bits / 8) ∧
      ∀ j, j < l.length →
        l[j]? = some (∑ k ∈ Finset.range (w.bits / 8),
          (if j * (w.bits / 8) + k < b
            then ((Memory.read s.key (j * (w.bits / 8) + k)).getD 0#8).toNat else 0) * 256 ^ k)

/-- R137, R138: `SINIT` writes the `t = 2(R + 1)` words `(P + k·Q) mod 2^w`, which do not depend on the key. -/
def Obligations.SinitClosedForm : Prop :=
  ∀ (s : State) (w : WordSize) (r p q : Nat),
    s.w = some w → s.r = some r → s.p = some p → s.q = some q → p < 2 ^ w.bits →
      ∃ sch : List Nat,
        exec .sinit s = .next { s with sch := sch, ph := 0x05#5 } ∧ sch.length = 2 * (r + 1) ∧
        ∀ k, k < 2 * (r + 1) → sch[k]? = some ((p + k * q) % 2 ^ w.bits)

/-- R139: `KMIX0` clears the five key-mix registers. -/
def Obligations.Kmix0Clears : Prop :=
  ∀ s : State,
    exec .kmix0 s =
      .next { s with ka := some 0, kb := some 0, i := some 0, j := some 0, n := some 0, ph := 0x06#5 }

/-- R140, with R141 for what follows iteration `m`: one key-mix iteration.  Under `ROT_WIDE = REDUCE`, and under any setting where
the rotator's operand is below `2^w`, the new words are the rotations of R140; elsewhere they are words, of which the
spec gives no value (that they are words is DEDUCED, log 4).  That the last iteration also starts the block loop of the
decrypt side is the model's choice (log 17). -/
def Obligations.KmixIteration : Prop :=
  ∀ (s : State) (d : Descriptor) (w : WordSize) (r b len ka kb i j n si lj : Nat),
    s.desc = some d → s.w = some w → s.r = some r → s.blen = some b →
    s.len = some len → s.ka = some ka → s.kb = some kb → s.i = some i → s.j = some j → s.n = some n →
    s.sch[i]? = some si → s.l[j]? = some lj →
    let x := (si + ka) % 2 ^ w.bits
    let y := x + kb
    let t := 2 * (r + 1)
    let c := (max b 1 + (w.bits / 8 - 1)) / (w.bits / 8)
    let more : Prop := n + 1 < 3 * max t c
    ∃ v q s', exec .kmix s = .next s' ∧ v < 2 ^ w.bits ∧ q < 2 ^ w.bits ∧
      (s.cfg.rotWide = .reduce ∨ y < 2 ^ w.bits → v = rotl w (y % 2 ^ w.bits) 3) ∧
      (let z := lj + v + kb
       let amt := (v + kb) % w.bits
       s.cfg.rotWide = .reduce ∨ z < 2 ^ w.bits → q = rotl w (z % 2 ^ w.bits) amt) ∧
      s' = { s with
        sch := s.sch.set i v, l := s.l.set j q, ka := some v, kb := some q,
        i := some ((i + 1) % t), j := some ((j + 1) % c), n := some (n + 1),
        ph := s'.ph, blk := s'.blk } ∧
      (more → s'.ph = 0x06#5 ∧ s'.blk = s.blk) ∧
      (¬more → (d.op = .encrypt ∨ d.op = .encBytes) → s'.ph = 0x0A#5 ∧ s'.blk = s.blk) ∧
      (¬more → (d.op = .decrypt ∨ d.op = .decBytes) →
        s'.ph = (if len / (2 * w.bits / 8) = 0 then 0x13#5 else 0x0B#5) ∧ s'.blk = some 0)

/-- R143: the derived schedule has `t` words, every one below `2^w`, under `ROT_WIDE = REDUCE`.  That the bound holds under
another rotator as well is the model's (DEDUCED, log 4: such a rotator answers a word). -/
def Obligations.KeyScheduleShape : Prop :=
  ∀ (c : Config) (w : WordSize) (r : Nat) (key : List Byte), c.wf = true →
    (keySchedule c w r key).length = 2 * (r + 1) ∧ ∀ x ∈ keySchedule c w r key, x < 2 ^ w.bits

/-- R145: trailing zero bytes within the same last word do not change the schedule. -/
def Obligations.TrailingZerosShareTheSchedule : Prop :=
  ∀ (c : Config) (w : WordSize) (r z : Nat) (key : List Byte),
    keyWords w (key.length + z) = keyWords w key.length →
      packKey w (key ++ List.replicate z 0#8) = packKey w key ∧
        keySchedule c w r (key ++ List.replicate z 0#8) = keySchedule c w r key

/-! ### Loading -/

/-- R102: `LOADP`.  The failure is the step to `FAIL` (log 11). -/
def Obligations.LoadpLoadsOrRefuses : Prop :=
  ∀ (s : State) (d : Descriptor) (w : WordSize), s.desc = some d → s.w = some w →
    d.payload.length = payloadFit s.cfg d.pIn.toNat →
    let enc : Bool := d.op = .encrypt ∨ d.op = .encBytes
    (∀ cap, s.cfg.bufCap = some cap →
      d.pIn.toNat > (if enc then cap - (2 * w.bits / 8 - 1) else cap) →
        exec .loadp s = .next { s with kind := some .arg, ph := 0x17#5 }) ∧
    ((∀ cap, s.cfg.bufCap = some cap → d.pIn.toNat ≤ (if enc then cap - (2 * w.bits / 8 - 1) else cap)) →
      ∃ buf, exec .loadp s = .next
          { s with buf := buf, len := some d.pIn.toNat, ph := if enc then 0x02#5 else 0x09#5 } ∧
        (∀ k, k < d.pIn.toNat → Memory.read buf k = d.payload[k]?) ∧ SameOutside s.buf buf 0 d.pIn.toNat)

/-- R198: `HEXDEC`.  A failure is the step to `FAIL` (log 11); of a string longer than `INMEM` the characters meant are those
latched (log 13). -/
def Obligations.HexdecDecodesOrFails : Prop :=
  ∀ (s : State) (d : Descriptor), s.desc = some d → d.payload.length = payloadFit s.cfg d.pIn.toNat →
    let bad : Prop := d.pIn.toNat % 2 ≠ 0 ∨ ∃ ch ∈ d.payload, hexVal s.cfg.hexInCase ch = none
    let big : Prop := ∃ cap, s.cfg.bufCap = some cap ∧ d.pIn.toNat / 2 > cap
    (bad → exec .hexdec s = .next { s with kind := some .hexFormat, ph := 0x17#5 }) ∧
    (¬bad → big → exec .hexdec s = .next { s with kind := some .arg, ph := 0x17#5 }) ∧
    (¬bad → ¬big →
      ∃ buf, exec .hexdec s = .next { s with buf := buf, len := some (d.pIn.toNat / 2), ph := 0x09#5 } ∧
        SameOutside s.buf buf 0 (d.pIn.toNat / 2) ∧
        ∀ k hi lo, k < d.pIn.toNat / 2 →
          d.payload[2 * k]?.bind (hexVal s.cfg.hexInCase) = some hi →
          d.payload[2 * k + 1]?.bind (hexVal s.cfg.hexInCase) = some lo →
            Memory.read buf k = some (BitVec.ofNat 8 (16 * hi + lo)))

/-- R103: `LENCHK`.  The failure is the step to `FAIL` (log 11). -/
def Obligations.LenchkChecksAlignment : Prop :=
  ∀ (s : State) (w : WordSize) (len : Nat), s.w = some w → s.len = some len →
    (len % (2 * w.bits / 8) ≠ 0 → exec .lenchk s = .next { s with kind := some .arg, ph := 0x17#5 }) ∧
      (len % (2 * w.bits / 8) = 0 → exec .lenchk s = .next { s with ph := 0x02#5 })

/-! ### The block datapath -/

/-- R155: `BLKLD`, with R160 and R173 for what follows it; that it sets `RC` on the decrypt side is the model's choice
(log 17). -/
def Obligations.BlkldLoadsTheBlock : Prop :=
  ∀ (s : State) (d : Descriptor) (w : WordSize) (r len blk : Nat) (xa xb : List Byte),
    s.desc = some d → s.w = some w → s.r = some r → s.len = some len → s.blk = some blk →
    blk * (2 * w.bits / 8) + 2 * w.bits / 8 ≤ len → xa.length = w.bits / 8 → xb.length = w.bits / 8 →
    (∀ k, k < w.bits / 8 → Memory.read s.buf (blk * (2 * w.bits / 8) + k) = xa[k]?) →
    (∀ k, k < w.bits / 8 → Memory.read s.buf (blk * (2 * w.bits / 8) + w.bits / 8 + k) = xb[k]?) →
    ((d.op = .encrypt ∨ d.op = .encBytes) →
      exec .blkld s = .next { s with a := some (leWord xa), b := some (leWord xb), ph := 0x0C#5 }) ∧
    ((d.op = .decrypt ∨ d.op = .decBytes) →
      exec .blkld s = .next
        { s with
          a := some (leWord xa), b := some (leWord xb), rc := some r,
          ph := if r = 0 then 0x12#5 else 0x10#5 })

/-- R156: `ENC0`, with R160 for the start of the rounds; that it sets `RC` is the model's choice (log 17). -/
def Obligations.Enc0AddsTheFirstWords : Prop :=
  ∀ (s : State) (w : WordSize) (r a b s0 s1 : Nat),
    s.w = some w → s.r = some r → s.a = some a → s.b = some b → s.sch[0]? = some s0 → s.sch[1]? = some s1 →
      exec .enc0 s = .next
        { s with
          a := some ((a + s0) % 2 ^ w.bits), b := some ((b + s1) % 2 ^ w.bits), rc := some 1,
          ph := if r = 0 then 0x0F#5 else 0x0D#5 }

/-- R157: `ENCA`. -/
def Obligations.EncaUpdatesA : Prop :=
  ∀ (s : State) (w : WordSize) (a b rc k : Nat),
    s.w = some w → s.a = some a → s.b = some b → s.rc = some rc → s.sch[2 * rc]? = some k →
      exec .enca s = .next
        { s with a := some ((rotl w (a ^^^ b) (b % w.bits) + k) % 2 ^ w.bits), ph := 0x0E#5 }

/-- R158: `ENCB`, on the `A` that `ENCA` wrote, with R160 for the end of the round; that it counts `RC` is the model's
choice (log 17). -/
def Obligations.EncbUpdatesB : Prop :=
  ∀ (s : State) (w : WordSize) (r a b rc k : Nat),
    s.w = some w → s.r = some r → s.a = some a → s.b = some b → s.rc = some rc →
    s.sch[2 * rc + 1]? = some k →
      exec .encb s = .next
        { s with
          b := some ((rotl w (b ^^^ a) (a % w.bits) + k) % 2 ^ w.bits), rc := some (rc + 1),
          ph := if rc + 1 ≤ r then 0x0D#5 else 0x0F#5 }

/-- R159: `BLKST`: exactly the block's bytes change, to the little-endian bytes of `A` and `B`; with R163 and R176 for the
block loop; that it counts `BLK` is the model's choice (log 17). -/
def Obligations.BlkstStoresTheBlock : Prop :=
  ∀ (s : State) (d : Descriptor) (w : WordSize) (len blk a b : Nat),
    s.desc = some d → s.w = some w → s.len = some len → s.blk = some blk → s.a = some a → s.b = some b →
    blk * (2 * w.bits / 8) + 2 * w.bits / 8 ≤ len →
    ∃ buf, exec .blkst s = .next
        { s with
          buf := buf, blk := some (blk + 1),
          ph := if blk + 1 < len / (2 * w.bits / 8) then 0x0B#5 else lastPhase d.op } ∧
      (∀ k, k < w.bits / 8 →
        Memory.read buf (blk * (2 * w.bits / 8) + k) = some (BitVec.ofNat 8 (a / 256 ^ k)) ∧
        Memory.read buf (blk * (2 * w.bits / 8) + w.bits / 8 + k) = some (BitVec.ofNat 8 (b / 256 ^ k))) ∧
      SameOutside s.buf buf (blk * (2 * w.bits / 8)) (2 * w.bits / 8)

/-- R170: `DECB`. -/
def Obligations.DecbUndoesB : Prop :=
  ∀ (s : State) (w : WordSize) (a b rc k : Nat),
    s.w = some w → s.a = some a → s.b = some b → s.rc = some rc → s.sch[2 * rc + 1]? = some k →
      exec .decb s = .next { s with b := some (rotr w (subW w b k) (a % w.bits) ^^^ a), ph := 0x11#5 }

/-- R171: `DECA`, on the `B` that `DECB` wrote, with R173 for the end of the round; that it counts `RC` is the
model's choice (log 17). -/
def Obligations.DecaUndoesA : Prop :=
  ∀ (s : State) (w : WordSize) (a b rc k : Nat),
    s.w = some w → s.a = some a → s.b = some b → s.rc = some rc → s.sch[2 * rc]? = some k →
      exec .deca s = .next
        { s with
          a := some (rotr w (subW w a k) (b % w.bits) ^^^ b), rc := some (rc - 1),
          ph := if 1 ≤ rc - 1 then 0x10#5 else 0x12#5 }

/-- R172: `DEC0`. -/
def Obligations.Dec0SubtractsTheFirstWords : Prop :=
  ∀ (s : State) (w : WordSize) (a b s0 s1 : Nat),
    s.w = some w → s.a = some a → s.b = some b → s.sch[0]? = some s0 → s.sch[1]? = some s1 →
      exec .dec0 s = .next { s with a := some (subW w a s0), b := some (subW w b s1), ph := 0x0F#5 }

/-! ### Padding -/

/-- R185, R186: `PAD`, with R163 for the start of the block loop; that it sets `BLK` is the model's choice (log 17). -/
def Obligations.PadFillsTheLastBlock : Prop :=
  ∀ (s : State) (d : Descriptor) (w : WordSize) (len : Nat),
    s.desc = some d → s.w = some w → s.len = some len →
    let bs := 2 * w.bits / 8
    let p := if len % bs = 0 then 0 else bs - len % bs
    (∀ cap, s.cfg.bufCap = some cap → len + p ≤ cap) →
    ∃ buf, exec .pad s = .next
        { s with
          buf := buf, len := some (len + p), blk := some 0,
          ph := if (len + p) / bs = 0 then lastPhase d.op else 0x0B#5 } ∧
      (∀ k, k < p → Memory.read buf (len + k) = some (BitVec.ofNat 8 p)) ∧ SameOutside s.buf buf len p

/-- R187: after `PAD` the length is the next multiple of `bs`; what was there is unchanged; at most `bs - 1` bytes are
appended; applied to its own output it appends nothing. -/
def Obligations.PadReachesTheNextBoundary : Prop :=
  ∀ (w : WordSize) (xs : List Byte),
    let bs := 2 * w.bits / 8
    let ys := padBytes bs xs
    ys.length % bs = 0 ∧ ys.length = (xs.length + bs - 1) / bs * bs ∧ ys.take xs.length = xs ∧
      ys.length - xs.length ≤ bs - 1 ∧ padBytes bs ys = ys

/-- R188, R190: `UNPAD` looks at the trailing byte alone and changes `LEN` alone, on a buffer of whole blocks, which is what
R190 says it meets (log 12). -/
def Obligations.UnpadIsLenient : Prop :=
  ∀ (s : State) (w : WordSize) (len : Nat), s.w = some w → s.len = some len →
    (len = 0 → exec .unpad s = .next { s with ph := 0x15#5 }) ∧
    ∀ q : Byte, 0 < len → Memory.read s.buf (len - 1) = some q → len % (2 * w.bits / 8) = 0 →
      (1 ≤ q.toNat → q.toNat ≤ 2 * w.bits / 8 →
        exec .unpad s = .next { s with len := some (len - q.toNat), ph := 0x15#5 }) ∧
      ((q.toNat = 0 ∨ 2 * w.bits / 8 < q.toNat) → exec .unpad s = .next { s with ph := 0x15#5 })

/-- R191: what `UNPAD` makes of the output of `PAD`. -/
def Obligations.UnpadAfterPad : Prop :=
  ∀ (w : WordSize) (xs : List Byte),
    let bs := 2 * w.bits / 8
    (xs.length % bs ≠ 0 ∨ xs = [] → unpadBytes bs (padBytes bs xs) = xs) ∧
    ∀ q, xs.length % bs = 0 → xs.getLast? = some q →
      ((q.toNat = 0 ∨ bs < q.toNat) → unpadBytes bs (padBytes bs xs) = xs) ∧
      (1 ≤ q.toNat → q.toNat ≤ bs → unpadBytes bs (padBytes bs xs) = xs.take (xs.length - q.toNat))

/-! ### Serialisation and results -/

/-- R195, R196: `HEXENC`.  `OLEN` is stated for a length that fits its 32 bits (log 7). -/
def Obligations.HexencWritesTheString : Prop :=
  ∀ (s : State) (len : Nat), s.len = some len → filled s.buf len →
    (∀ cap, s.cfg.bufCap = some cap → len ≤ cap) →
    ∃ out olen, exec .hexenc s = .next { s with outmem := out, olen := olen, ph := 0x16#5 } ∧
      (2 * len < 2 ^ 32 → olen.toNat = 2 * len) ∧ SameOutside s.outmem out 0 (2 * len) ∧
      ∀ k x, k < len → Memory.read s.buf k = some x →
        Memory.read out (2 * k) = some (hexDigit (x.toNat / 16)) ∧
        Memory.read out (2 * k + 1) = some (hexDigit (x.toNat % 16))

/-- R107: `STOREP`.  `OLEN` is stated for a length that fits its 32 bits (log 7). -/
def Obligations.StorepCopiesTheBuffer : Prop :=
  ∀ (s : State) (len : Nat), s.len = some len → filled s.buf len →
    (∀ cap, s.cfg.bufCap = some cap → len ≤ cap) →
    ∃ out olen, exec .storep s = .next { s with outmem := out, olen := olen, ph := 0x16#5 } ∧
      (len < 2 ^ 32 → olen.toNat = len) ∧ SameOutside s.outmem out 0 len ∧
      ∀ k, k < len → Memory.read out k = Memory.read s.buf k

/-- R197: the digit table and its inverse. -/
def Obligations.HexDigitTable : Prop :=
  (List.range 16).map hexDigit =
      [0x30#8, 0x31#8, 0x32#8, 0x33#8, 0x34#8, 0x35#8, 0x36#8, 0x37#8, 0x38#8, 0x39#8, 0x41#8, 0x42#8,
        0x43#8, 0x44#8, 0x45#8, 0x46#8] ∧
    (∀ v, v < 16 → ∀ case, hexVal case (hexDigit v) = some v) ∧
    (∀ v, v < 6 → hexVal .both (BitVec.ofNat 8 (0x61 + v)) = some (10 + v)) ∧
    (∀ ch : Byte, (hexVal .both ch).isSome = true ↔
      (0x30 ≤ ch.toNat ∧ ch.toNat ≤ 0x39) ∨ (0x41 ≤ ch.toNat ∧ ch.toNat ≤ 0x46) ∨
        (0x61 ≤ ch.toNat ∧ ch.toNat ≤ 0x66)) ∧
    ∀ ch : Byte, (hexVal .upper ch).isSome = true ↔
      (0x30 ≤ ch.toNat ∧ ch.toNat ≤ 0x39) ∨ (0x41 ≤ ch.toNat ∧ ch.toNat ≤ 0x46)

/-- R199: decoding inverts encoding; encoding a decoded string gives the string back with its letters in upper case. -/
def Obligations.HexDecodeInvertsEncode : Prop :=
  (∀ (case : HexInCase) (xs : List Byte), hexDecode case (hexEncode xs) = some xs) ∧
    ∀ (case : HexInCase) (chars xs : List Byte), hexDecode case chars = some xs →
      hexEncode xs = chars.map fun ch =>
        if 0x61 ≤ ch.toNat ∧ ch.toNat ≤ 0x66 then BitVec.ofNat 8 (ch.toNat - 0x20) else ch

/-! ### The ends of a call -/

/-- R218: `FINISH`.  That the latched descriptor goes as well is the model's (log 16). -/
def Obligations.FinishEndsTheCall : Prop :=
  ∀ s : State,
    exec .finish s = .next
      { s with
        errcode := 0#8, done := true, err := false, busy := false, desc := none, kind := none,
        w := none, r := none, blen := none, p := none, q := none, key := [], l := [], sch := [],
        ka := none, kb := none, i := none, j := none, n := none, a := none, b := none,
        rc := none, blk := none, buf := [], len := none,
        ph := 0x00#5 }

/-- R215, R211: `FAIL`, with the five codes, on the kind that the raising micro-operation handed over (log 11, log 16). -/
def Obligations.FailEndsTheCall : Prop :=
  ∀ (s : State) (e : FailKind), s.kind = some e →
    exec .fail s = .next
      { s with
        errcode := (match e with
          | .wordSize => 1#8
          | .rounds => 2#8
          | .keyLen => 3#8
          | .hexFormat => 4#8
          | .arg => 5#8),
        olen := 0#32, err := true, done := false, busy := false, desc := none, kind := none,
        w := none, r := none, blen := none, p := none, q := none, key := [], l := [], sch := [],
        ka := none, kb := none, i := none, j := none, n := none, a := none, b := none,
        rc := none, blk := none, buf := [], len := none,
        ph := 0x00#5 }

/-! ### Arithmetic -/

/-- R21: the laws of the primitives. -/
def Obligations.PrimitiveLaws : Prop :=
  ∀ (w : WordSize) (x y n : Nat), x < 2 ^ w.bits → y < 2 ^ w.bits → n < w.bits →
    subW w (addW w x y) y = x ∧ addW w (subW w x y) y = x ∧ xorW (xorW x y) y = x ∧
      rotr w (rotl w x n) n = x ∧ rotl w (rotr w x n) n = x ∧
      addW w x y < 2 ^ w.bits ∧ subW w x y < 2 ^ w.bits ∧ xorW x y < 2 ^ w.bits ∧
      rotl w x n < 2 ^ w.bits ∧ rotr w x n < 2 ^ w.bits

/-- R17: "Bit `k` of `x` becomes bit `(k + n) mod w` of the result", and nothing else is set. -/
def Obligations.RotlMovesBits : Prop :=
  ∀ (w : WordSize) (x n : Nat), x < 2 ^ w.bits → n < w.bits →
    rotl w x 0 = x ∧ (∀ k, k < w.bits → (rotl w x n).testBit ((k + n) % w.bits) = x.testBit k) ∧
      ∀ k, w.bits ≤ k → (rotl w x n).testBit k = false

/-- R23, R24: the byte and word conversions are inverse to each other. -/
def Obligations.ByteWordConversions : Prop :=
  (∀ xs : List Byte, leWord xs = ∑ k ∈ Finset.range xs.length, (xs.getD k 0#8).toNat * 256 ^ k) ∧
    (∀ (u x k : Nat), k < u → (leBytes u x)[k]? = some (BitVec.ofNat 8 (x / 256 ^ k))) ∧
    (∀ u x : Nat, x < 256 ^ u → leWord (leBytes u x) = x) ∧
    ∀ xs : List Byte, leBytes xs.length (leWord xs) = xs

/-! ### Block transforms and operations as functions -/

/-- R177: the block round trip, both ways, for every schedule of `t` words. -/
def Obligations.BlockRoundTrip : Prop :=
  ∀ (w : WordSize) (r : Nat) (sch : List Nat) (x : Nat × Nat),
    r ≤ 255 → sch.length = 2 * (r + 1) → (∀ k ∈ sch, k < 2 ^ w.bits) → x.1 < 2 ^ w.bits → x.2 < 2 ^ w.bits →
      decBlock w r sch (encBlock w r sch x) = x ∧ encBlock w r sch (decBlock w r sch x) = x

/-- R109: the round trip of the byte-level operations, exactly, with its exception.  Under a rotator other than `REDUCE` it rests
on the words of the schedule being words (DEDUCED, log 4). -/
def Obligations.CommandRoundTrip : Prop :=
  ∀ (c : Config) (w : WordSize) (r : Nat) (key xs : List Byte), c.wf = true → r ≤ 255 → key.length ≤ 255 →
    let bs := 2 * w.bits / 8
    let z := decBytesOf c w r key (encBytesOf c w r key xs)
    (xs.length % bs ≠ 0 ∨ xs = [] → z = xs) ∧
    ∀ q, xs.length % bs = 0 → xs.getLast? = some q →
      ((q.toNat = 0 ∨ bs < q.toNat) → z = xs) ∧
      (1 ≤ q.toNat → q.toNat ≤ bs → z = xs.take (xs.length - q.toNat))

/-- R109 for text, with R200 to R202 (the codec is HOST's, and only its losslessness is known, log 23; of a rotator
other than `REDUCE` log 4 is assumed): a text comes back from `decrypt` of `encrypt` unless its bytes are a positive multiple
of `bs` and end in one of `1 .. bs`. -/
def Obligations.TextRoundTrip : Prop :=
  ∀ (Text : Type) (codec : TextCodec Text) (c : Config) (w : WordSize) (r : Nat) (text key : Text),
    c.wf = true → r ≤ 255 → (codec.utf8 key).length ≤ 255 →
    (∀ q, (codec.utf8 text).getLast? = some q → (codec.utf8 text).length % (2 * w.bits / 8) = 0 →
      q.toNat = 0 ∨ 2 * w.bits / 8 < q.toNat) →
    decryptText codec c w r (encryptText codec c w r text key) key = some text

/-- R111, R66: block independence. -/
def Obligations.BlockIndependence : Prop :=
  ∀ (c : Config) (w : WordSize) (r : Nat) (key xs ys : List Byte), xs.length % (2 * w.bits / 8) = 0 →
    encBytesOf c w r key (xs ++ ys) = encBytesOf c w r key xs ++ encBytesOf c w r key ys

/-! ### The whole machine -/

/-- The invariant holds after reset.  Its memory and register clauses say what R48, R49, R50 say. -/
def Obligations.ResetMeetsTheInvariant : Prop := Inv State.reset

/-- R41, R42, R43, R48, R49, R51, R143, R164: every step, of ENGINE or of HOST, keeps the invariant.  Under a rotator other than
`REDUCE` the bound on the words of `L` and `S` is the model's (DEDUCED, log 4), and the note of what HOST supplied is the
model's under any setting (log 24). -/
def Obligations.StepKeepsTheInvariant : Prop :=
  ∀ s t : State, Inv s → step s = .next t → Inv t

/-- R49, R67, R76: in a state that meets the invariant nothing is read that holds no value and nothing is accessed outside its
space: the step goes on, whatever move HOST makes among those ENGINE can take, also a `CMD` write on a descriptor that HOST has
not supplied anew against R243 (log 3, log 15, log 20, log 24). -/
def Obligations.NoStepFaults : Prop :=
  ∀ s : State, Inv s → (∀ m rest, s.host = m :: rest → MoveLegal s m) → ∃ t, step s = .next t

/-- R49, U18: an instruction that reads a place that holds no value faults by the name of that place, the first one in the order
of its meaning (the order is the model's, log 15): the first clause for every register it reads whatever the values, the
others, with those registers present, for the arrays and for what is read in one case only.  R49 and U18 speak of the
registers and arrays of R32 to R39: that the latched descriptor (`desc`), a latched key or payload that is too short
(`keyLatch`, `payload`) and the failure kind (`kind`) fault in the same way is the model's (DEDUCED, log 16). -/
def Obligations.UnwrittenReadsFault : Prop :=
  ∀ s : State,
    (∀ (i : Instr) (loc : Loc), (operands i).find? (lacks s) = some loc → exec i s = .fault (.noValue loc)) ∧
    (∀ d : Descriptor, s.desc = some d →
      (d.wReq.toInt = 16 ∨ d.wReq.toInt = 32 ∨ d.wReq.toInt = 64) → 0 ≤ d.rReq.toInt → d.rReq.toInt ≤ 255 →
      d.bIn.toNat ≤ 255 → d.key.length < d.bIn.toNat → exec .validate s = .fault (.noValue .keyLatch)) ∧
    (∀ (d : Descriptor) (w : WordSize), s.desc = some d → s.w = some w →
      (∀ cap, s.cfg.bufCap = some cap →
        d.pIn.toNat ≤ (if d.op = .encrypt ∨ d.op = .encBytes then cap - (2 * w.bits / 8 - 1) else cap)) →
      d.payload.length < d.pIn.toNat → exec .loadp s = .fault (.noValue .payload)) ∧
    (∀ d : Descriptor, s.desc = some d → d.pIn.toNat % 2 = 0 →
      (∀ ch ∈ d.payload, (hexVal s.cfg.hexInCase ch).isSome = true) →
      (∀ cap, s.cfg.bufCap = some cap → d.pIn.toNat / 2 ≤ cap) →
      d.payload.length < d.pIn.toNat → exec .hexdec s = .fault (.noValue .payload)) ∧
    (∀ b : Nat, HasOperands .kpack s → s.blen = some b → ¬filled s.key b →
      exec .kpack s = .fault (.noValue .key)) ∧
    (∀ i j : Nat, HasOperands .kmix s → s.i = some i → s.j = some j →
      (s.sch[i]? = none → exec .kmix s = .fault (.noValue .sch)) ∧
      (s.sch[i]?.isSome = true → s.l[j]? = none → exec .kmix s = .fault (.noValue .l)) ∧
      ∀ (w : WordSize) (r b n : Nat), s.w = some w → s.r = some r → s.blen = some b → s.n = some n →
        s.sch[i]?.isSome = true → s.l[j]?.isSome = true →
        3 * max (2 * (r + 1)) ((max b 1 + (w.bits / 8 - 1)) / (w.bits / 8)) ≤ n + 1 →
          (s.desc = none → exec .kmix s = .fault (.noValue .desc)) ∧
          ∀ d : Descriptor, s.desc = some d → (d.op = .decrypt ∨ d.op = .decBytes) → s.len = none →
            exec .kmix s = .fault (.noValue .len)) ∧
    (s.sch[0]? = none ∨ s.sch[1]? = none →
      (HasOperands .enc0 s → exec .enc0 s = .fault (.noValue .sch)) ∧
      (HasOperands .dec0 s → exec .dec0 s = .fault (.noValue .sch))) ∧
    (∀ rc : Nat, s.rc = some rc →
      (s.sch[2 * rc]? = none →
        (HasOperands .enca s → exec .enca s = .fault (.noValue .sch)) ∧
        (HasOperands .deca s → exec .deca s = .fault (.noValue .sch))) ∧
      (s.sch[2 * rc + 1]? = none →
        (HasOperands .encb s → exec .encb s = .fault (.noValue .sch)) ∧
        (HasOperands .decb s → exec .decb s = .fault (.noValue .sch)))) ∧
    (∀ (d : Descriptor) (w : WordSize) (len blk : Nat),
      s.desc = some d → s.w = some w → s.len = some len → s.blk = some blk →
      blk * (2 * w.bits / 8) + 2 * w.bits / 8 ≤ len →
      ((∃ k, k < 2 * w.bits / 8 ∧ Memory.read s.buf (blk * (2 * w.bits / 8) + k) = none) →
        exec .blkld s = .fault (.noValue .buf)) ∧
      ((∀ k, k < 2 * w.bits / 8 → (Memory.read s.buf (blk * (2 * w.bits / 8) + k)).isSome = true) →
        (d.op = .decrypt ∨ d.op = .decBytes) → s.r = none → exec .blkld s = .fault (.noValue .r))) ∧
    ∀ len : Nat, s.len = some len →
      (HasOperands .unpad s → 0 < len → Memory.read s.buf (len - 1) = none →
        exec .unpad s = .fault (.noValue .buf)) ∧
      (¬filled s.buf len →
        exec .hexenc s = .fault (.noValue .buf) ∧ exec .storep s = .fault (.noValue .buf))

/-- R60, R76 and the precondition of R155: an access outside `BUF` or `OUTMEM` faults by name (log 20); `NoStepFaults` says that
no call comes to it. -/
def Obligations.AccessesOutsideFault : Prop :=
  ∀ (s : State) (d : Descriptor) (w : WordSize) (len : Nat),
    s.desc = some d → s.w = some w → s.len = some len →
    (∀ blk a b, s.blk = some blk → s.a = some a → s.b = some b →
      len < blk * (2 * w.bits / 8) + 2 * w.bits / 8 →
        exec .blkld s = .fault (.outOfRange .buf) ∧ exec .blkst s = .fault (.outOfRange .buf)) ∧
    (let bs := 2 * w.bits / 8
     let p := if len % bs = 0 then 0 else bs - len % bs
     ∀ cap, s.cfg.bufCap = some cap → cap < len + p → exec .pad s = .fault (.outOfRange .buf)) ∧
    ∀ cap, s.cfg.bufCap = some cap → filled s.buf len →
      (cap < len → exec .hexenc s = .fault (.outOfRange .outmem)) ∧
        (2 * cap < len → exec .storep s = .fault (.outOfRange .outmem))

/-- R253, R255: every call ends, within a bound fixed by the payload length. -/
def Obligations.EveryCallEnds : Prop :=
  ∀ (s : State) (v : BitVec 8), Inv s → s.busy = false → s.host = [.writeCmd v] →
    ∃ k t, k ≤ 1600 + 513 * (s.plenIn.toNat + 1) ∧ Reaches k s t ∧ Quiescent t ∧ t.host = []

/-- R100, R101, R104, R105, R110: a call of the machine ends as the composed rules say: with the result of `encrypt`,
`decrypt`, `enc_bytes` or `dec_bytes`, or with the first failure of its sequence.  For a hexadecimal string longer than
`INMEM` which of `E_HEX_FORMAT` and `E_ARG` ends the call is the model's (DEDUCED, log 13), and `OLEN` is stated for a
result whose length fits its 32 bits (log 7). -/
def Obligations.CallComputesItsResult : Prop :=
  ∀ (s : State) (op : Op), Inv s → s.busy = false → s.host = [.writeCmd (commandCode op)] →
    ∃ k t, Reaches k s t ∧ Quiescent t ∧ t.host = [] ∧ EndsWith t (callResult s.cfg (latch op s))

/-- R31, R110, R246: nothing of an earlier call reaches a later one: two machines with the same configuration and the same
descriptor, whatever happened before, run in step and end with the same outcome. -/
def Obligations.NothingCarriesOver : Prop :=
  ∀ (s s' : State) (op : Op) (k : Nat) (t : State),
    Inv s → Inv s' → s.busy = false → s'.busy = false → s.cfg = s'.cfg → latch op s = latch op s' →
    s.host = [.writeCmd (commandCode op)] → s'.host = [.writeCmd (commandCode op)] →
    Reaches (k + 1) s t →
      ∃ t', Reaches (k + 1) s' t' ∧ t.ph = t'.ph ∧ t.busy = t'.busy ∧ (t.busy = false → SameOutcome t t')

/-- R212: these micro-operations raise nothing, ever. -/
def Obligations.OnlyTheNamedOnesRaise : Prop :=
  ∀ (i : Instr) (s t : State), exec i s = .next t →
    i ∈ [Instr.ksel, .kpack, .sinit, .kmix0, .kmix, .pad, .blkld, .enc0, .enca, .encb, .blkst, .decb,
      .deca, .dec0, .unpad, .hexenc, .storep, .finish] →
    t.ph ≠ 0x17#5 ∧ (t.kind = s.kind ∨ t.kind = none)

/-- R32 to R39, R60, R247: who writes what.  `S` is written by `SINIT` and `KMIX` alone, `L` by `KPACK` and `KMIX`, `KEY` and
the latched parameters by `VALIDATE`, and so on; any other instruction leaves each as it is, but for those that start or end
a call, which may leave it without a value.  Which ones count `RC` and `BLK` is the model's choice (log 17). -/
def Obligations.StorageWriters : Prop :=
  ∀ (i : Instr) (s t : State), exec i s = .next t →
    let ends : Prop := i ∈ [Instr.encrypt, .decrypt, .encBytes, .decBytes, .idle, .finish, .fail]
    (i ≠ .sinit → i ≠ .kmix → t.sch = s.sch ∨ ends ∧ t.sch = []) ∧
      (i ≠ .kpack → i ≠ .kmix → t.l = s.l ∨ ends ∧ t.l = []) ∧
      (i ≠ .validate → t.key = s.key ∨ ends ∧ t.key = []) ∧
      (i ≠ .validate →
        (t.w = s.w ∧ t.r = s.r ∧ t.blen = s.blen) ∨ ends ∧ t.w = none ∧ t.r = none ∧ t.blen = none) ∧
      (i ≠ .ksel → (t.p = s.p ∧ t.q = s.q) ∨ ends ∧ t.p = none ∧ t.q = none) ∧
      (i ≠ .kmix0 → i ≠ .kmix →
        (t.ka = s.ka ∧ t.kb = s.kb ∧ t.i = s.i ∧ t.j = s.j ∧ t.n = s.n) ∨
          ends ∧ t.ka = none ∧ t.kb = none ∧ t.i = none ∧ t.j = none ∧ t.n = none) ∧
      (i ∉ [Instr.blkld, .enc0, .enca, .encb, .decb, .deca, .dec0] →
        (t.a = s.a ∧ t.b = s.b) ∨ ends ∧ t.a = none ∧ t.b = none) ∧
      (i ∉ [Instr.blkld, .enc0, .encb, .deca] → t.rc = s.rc ∨ ends ∧ t.rc = none) ∧
      (i ∉ [Instr.kmix, .pad, .blkst] → t.blk = s.blk ∨ ends ∧ t.blk = none) ∧
      (i ∉ [Instr.loadp, .hexdec, .pad, .unpad] → t.len = s.len ∨ ends ∧ t.len = none) ∧
      (i ∉ [Instr.loadp, .hexdec, .pad, .blkst] → t.buf = s.buf ∨ ends ∧ t.buf = []) ∧
      (i ≠ .hexenc → i ≠ .storep → t.outmem = s.outmem)

/-- R47, R74, R242, R249: no instruction writes the configuration, the input registers, `KEYMEM`, `INMEM` or anything of HOST's;
and no step writes the configuration.  What HOST has supplied for the next call (log 24) is used up by the start of a call
alone. -/
def Obligations.InstructionsLeaveTheInputs : Prop :=
  (∀ (i : Instr) (s t : State), exec i s = .next t →
    t.cfg = s.cfg ∧ t.wIn = s.wIn ∧ t.rIn = s.rIn ∧ t.klenIn = s.klenIn ∧ t.plenIn = s.plenIn ∧
      t.keymem = s.keymem ∧ t.inmem = s.inmem ∧ t.host = s.host ∧ t.rdata = s.rdata ∧
      t.epoch = s.epoch ∧ t.fresh = s.fresh ∧
      (t.supply = s.supply ∨
        i ∈ [Instr.encrypt, .decrypt, .encBytes, .decBytes, .idle] ∧ t.supply = .nothing)) ∧
    ∀ s t : State, step s = .next t → t.cfg = s.cfg

/-! ### The host port -/

/-- R42, R44: the bits of `STATUS`; `CMD` reads as 0. -/
def Obligations.StatusRegisterBits : Prop :=
  ∀ s : State,
    (statusReg s).getLsbD 0 = s.busy ∧ (statusReg s).getLsbD 1 = s.done ∧ (statusReg s).getLsbD 2 = s.err ∧
      (∀ k, 3 ≤ k → (statusReg s).getLsbD k = false) ∧ hostRegValue s .cmd = 0#32

/-- R44, R45, R68, R248: an input register reads back what was written; a window write stores one byte; neither changes anything
else but the note of what was supplied (log 24); a byte outside its window faults; while `BUSY = 1` the write is refused
(log 19, log 20). -/
def Obligations.HostWrites : Prop :=
  ∀ (s : State) (rest : List HostMove),
    (∀ v, s.busy = false →
      (s.host = .writeReg .wIn v :: .readReg .wIn :: rest →
        Reaches 2 s { s with host := rest, wIn := v, rdata := v, supply := { s.supply with wIn := some v } }) ∧
      (s.host = .writeReg .rIn v :: .readReg .rIn :: rest →
        Reaches 2 s { s with host := rest, rIn := v, rdata := v, supply := { s.supply with rIn := some v } }) ∧
      (s.host = .writeReg .klenIn v :: .readReg .klenIn :: rest →
        Reaches 2 s { s with host := rest, klenIn := v, rdata := v, supply := { s.supply with klenIn := some v } }) ∧
      (s.host = .writeReg .plenIn v :: .readReg .plenIn :: rest →
        Reaches 2 s { s with host := rest, plenIn := v, rdata := v, supply := { s.supply with plenIn := some v } })) ∧
    (∀ k v, s.busy = false → s.host = .writeKeymem k v :: rest →
      (k < 255 → ∃ m n, step s = .next { s with host := rest, keymem := m, supply := { s.supply with key := n } } ∧
        Memory.read m k = some v ∧ SameOutside s.keymem m k 1 ∧
        Memory.read n k = some v ∧ SameOutside s.supply.key n k 1) ∧
      (255 ≤ k → step s = .fault (.outOfRange .keymem))) ∧
    (∀ k v, s.busy = false → s.host = .writeInmem k v :: rest →
      ((∀ cap, s.cfg.bufCap = some cap → k < 2 * cap) →
        ∃ m n, step s = .next { s with host := rest, inmem := m, supply := { s.supply with payload := n } } ∧
          Memory.read m k = some v ∧ SameOutside s.inmem m k 1 ∧
          Memory.read n k = some v ∧ SameOutside s.supply.payload n k 1) ∧
      (∀ cap, s.cfg.bufCap = some cap → 2 * cap ≤ k → step s = .fault (.outOfRange .inmem))) ∧
    ∀ m, s.busy = true → s.host = m :: rest →
      ((∃ r v, m = .writeReg r v) ∨ (∃ k v, m = .writeKeymem k v) ∨ ∃ k v, m = .writeInmem k v) →
        step s = .refused .hostWriteWhileBusy

/-- R44, R51, R68, U15: HOST reads the result and every register while `BUSY = 0`, and `STATUS` at any time.  That `CMD` and the four
input registers are answered with their values while `BUSY = 1` too is the model's (DEDUCED, log 19: R44 without a condition;
R71 lets HOST read `STATUS` only then, which `MoveAllowed` says).  No read changes anything but what HOST is answered, and whatever a read is answered (a free value included,
log 6), it is answered the same again, also after other reads and, where an output is read, after writes of inputs. -/
def Obligations.HostReads : Prop :=
  ∀ (s : State) (rest : List HostMove),
    (∀ r, r ∈ [HostReg.cmd, .status, .wIn, .rIn, .klenIn, .plenIn] → s.host = .readReg r :: rest →
      step s = .next { s with
        host := rest,
        rdata :=
          (match r with
          | .cmd => 0#32
          | .status => (statusReg s).setWidth 32
          | .wIn => s.wIn
          | .rIn => s.rIn
          | .klenIn => s.klenIn
          | .plenIn => s.plenIn
          | .errcode | .olen => s.rdata) }) ∧
    (s.busy = false →
      (s.host = .readReg .errcode :: rest → step s = .next { s with host := rest, rdata := s.errcode.setWidth 32 }) ∧
      (s.host = .readReg .olen :: rest → step s = .next { s with host := rest, rdata := s.olen })) ∧
    (∀ k v, s.busy = false → k < s.olen.toNat → Memory.read s.outmem k = some v →
      (∀ cap, s.cfg.bufCap = some cap → k < 2 * cap) → s.host = .readOutmem k :: rest →
        step s = .next { s with host := rest, rdata := v.setWidth 32 }) ∧
    ∀ m t, s.host = m :: rest → ((∃ r, m = .readReg r) ∨ ∃ k, m = .readOutmem k) → step s = .next t →
      t = { s with host := rest, rdata := t.rdata } ∧
        (∀ x rest', step { s with host := m :: rest', rdata := x } = .next { t with host := rest' }) ∧
        (m ∈ [HostMove.readReg .errcode, .readReg .olen] ∨ (∃ k, m = .readOutmem k) →
          ∀ x rest' w r b p km im sup,
            step { s with
                host := m :: rest', rdata := x, wIn := w, rIn := r, klenIn := b, plenIn := p, keymem := km, inmem := im,
                supply := sup } =
              .next { t with
                host := rest', wIn := w, rIn := r, klenIn := b, plenIn := p, keymem := km, inmem := im, supply := sup })
end

