-- ==== Sys2Proof/Laws/Arith.lean ====
section
/-! SUPPORT. Sizes and bounds: every primitive maps words to words (R143, R164), and the byte conversions have the lengths
they should. -/

namespace Sys2Proof.Machine

theorem bits_pos (w : WordSize) : 0 < w.bits := by cases w <;> decide

theorem wordBytes_pos (w : WordSize) : 0 < wordBytes w := by cases w <;> decide

theorem bits_eq (w : WordSize) : w.bits = 8 * wordBytes w := by cases w <;> decide

theorem blockBytes_eq (w : WordSize) : blockBytes w = wordBytes w + wordBytes w := by cases w <;> decide

theorem blockBytes_pos (w : WordSize) : 0 < blockBytes w := by cases w <;> decide

theorem blockBytes_le (w : WordSize) : blockBytes w ≤ 16 := by cases w <;> decide

theorem keyWords_pos (w : WordSize) (b : Nat) : 0 < keyWords w b := by
  have h := wordBytes_pos w
  rw [keyWords]
  exact Nat.div_pos (by omega) h

theorem scheduleLength_pos (r : Nat) : 2 ≤ scheduleLength r := by
  simp only [scheduleLength]
  omega

theorem mixCount_pos (w : WordSize) (r b : Nat) : 0 < mixCount w r b := by
  have := scheduleLength_pos r
  simp only [mixCount]
  omega

theorem addW_lt (w : WordSize) (x y : Nat) : addW w x y < 2 ^ w.bits := Nat.mod_lt _ (by positivity)

theorem subW_lt (w : WordSize) (x y : Nat) : subW w x y < 2 ^ w.bits := Nat.mod_lt _ (by positivity)

theorem xorW_lt {w : WordSize} {x y : Nat} (hx : x < 2 ^ w.bits) (hy : y < 2 ^ w.bits) :
    xorW x y < 2 ^ w.bits := Nat.xor_lt_two_pow hx hy

theorem amount_lt (w : WordSize) (x : Nat) : amount w x < w.bits := Nat.mod_lt _ (bits_pos w)

/-- The left part of a rotation is a multiple of `2 ^ n`. -/
theorem shift_mod (w n x : Nat) (h : n ≤ w) : (x * 2 ^ n) % 2 ^ w = (x % 2 ^ (w - n)) * 2 ^ n := by
  obtain ⟨k, rfl⟩ := Nat.exists_eq_add_of_le h
  rw [Nat.add_sub_cancel_left, Nat.add_comm n k, pow_add, Nat.mul_mod_mul_right]

theorem rotl_lt {w : WordSize} {x : Nat} {n : Nat} (hx : x < 2 ^ w.bits) (hn : n < w.bits) :
    rotl w x n < 2 ^ w.bits := by
  have h1 : (x * 2 ^ n) % 2 ^ w.bits = (x % 2 ^ (w.bits - n)) * 2 ^ n := shift_mod _ _ _ hn.le
  have h2 : x % 2 ^ (w.bits - n) < 2 ^ (w.bits - n) := Nat.mod_lt _ (by positivity)
  have h3 : 2 ^ (w.bits - n) * 2 ^ n = 2 ^ w.bits := by rw [← pow_add]; congr 1; omega
  have h4 : x / 2 ^ (w.bits - n) < 2 ^ n := by
    rw [Nat.div_lt_iff_lt_mul (by positivity), mul_comm, h3]; exact hx
  have h5 : (x % 2 ^ (w.bits - n) + 1) * 2 ^ n ≤ 2 ^ (w.bits - n) * 2 ^ n := Nat.mul_le_mul_right _ h2
  rw [rotl, h1]
  rw [Nat.add_mul] at h5
  omega

theorem rotr_lt {w : WordSize} {x : Nat} {n : Nat} (hx : x < 2 ^ w.bits) (hn : n < w.bits) :
    rotr w x n < 2 ^ w.bits := by
  have h3 : 2 ^ (w.bits - n) * 2 ^ n = 2 ^ w.bits := by rw [← pow_add]; congr 1; omega
  have h2 : x % 2 ^ n < 2 ^ n := Nat.mod_lt _ (by positivity)
  have h4 : x / 2 ^ n < 2 ^ (w.bits - n) := by
    rw [Nat.div_lt_iff_lt_mul (by positivity), h3]; exact hx
  have h5 : (x % 2 ^ n + 1) * 2 ^ (w.bits - n) ≤ 2 ^ n * 2 ^ (w.bits - n) := Nat.mul_le_mul_right _ h2
  rw [mul_comm (2 ^ n) _, h3, Nat.add_mul] at h5
  rw [rotr]
  omega

theorem rotWide_lt (c : Config) {w : WordSize} (y : Nat) {n : Nat} (hn : n < w.bits) :
    rotWide c w y n < 2 ^ w.bits := by
  unfold rotWide
  split
  · exact rotl_lt (Nat.mod_lt _ (by positivity)) hn
  · split
    · exact rotl_lt ‹_› hn
    · exact Nat.mod_lt _ (by positivity)

theorem mixS_lt (c : Config) (w : WordSize) (si ka kb : Nat) : mixS c w si ka kb < 2 ^ w.bits :=
  rotWide_lt c _ (by cases w <;> decide)

theorem mixL_lt (c : Config) (w : WordSize) (lj ka kb : Nat) : mixL c w lj ka kb < 2 ^ w.bits :=
  rotWide_lt c _ (amount_lt w _)

theorem encHalf_lt (w : WordSize) (x other key : Nat) : encHalf w x other key < 2 ^ w.bits := addW_lt _ _ _

theorem decHalf_lt {w : WordSize} (x other key : Nat) (ho : other < 2 ^ w.bits) :
    decHalf w x other key < 2 ^ w.bits :=
  xorW_lt (rotr_lt (subW_lt _ _ _) (amount_lt _ _)) ho

theorem leWord_lt (xs : List Byte) : leWord xs < 2 ^ (8 * xs.length) := by
  induction xs with
  | nil => simp [leWord]
  | cons x xs ih =>
    have hx := x.isLt
    have : 2 ^ (8 * (x :: xs).length) = 256 * 2 ^ (8 * xs.length) := by
      rw [List.length_cons, Nat.mul_add, pow_add]; ring
    rw [leWord, this]
    omega

@[simp] theorem leBytes_length (u : Nat) (x : Nat) : (leBytes u x).length = u := by
  induction u generalizing x with
  | zero => rfl
  | succ u ih => simp [leBytes, ih]

@[simp] theorem hexEncode_length (xs : List Byte) : (hexEncode xs).length = 2 * xs.length := by
  induction xs with
  | nil => rfl
  | cons x xs ih => simp only [hexEncode, List.length_cons, ih]; omega

@[simp] theorem progression_length (w : WordSize) (q : Nat) (n : Nat) (x : Nat) :
    (progression w q n x).length = n := by
  induction n generalizing x with
  | zero => rfl
  | succ n ih => simp [progression, ih]

theorem progression_lt {w : WordSize} {q x : Nat} (n : Nat) (hx : x < 2 ^ w.bits) :
    ∀ y ∈ progression w q n x, y < 2 ^ w.bits := by
  induction n generalizing x with
  | zero => simp [progression]
  | succ n ih =>
    intro y hy
    rcases List.mem_cons.1 hy with rfl | hy
    · exact hx
    · exact ih (addW_lt _ _ _) y hy

@[simp] theorem packKey_length (w : WordSize) (key : List Byte) :
    (packKey w key).length = keyWords w key.length := by
  simp [packKey]

theorem packKey_lt (w : WordSize) (key : List Byte) : ∀ y ∈ packKey w key, y < 2 ^ w.bits := by
  intro y hy
  obtain ⟨j, _, rfl⟩ := List.mem_map.1 hy
  refine lt_of_lt_of_le (leWord_lt _) ?_
  simp [bits_eq]

theorem takeExact_eq_some {α : Type} {xs ys : List α} {n : Nat} :
    takeExact xs n = some ys ↔ n ≤ xs.length ∧ ys = xs.take n := by
  unfold takeExact
  split <;> simp [*, eq_comm]

end Sys2Proof.Machine
end

