-- ==== Sys2Proof/Laws/Memory.lean ====
section
/-! SUPPORT. Memory: a read after a write, the frame of a write, the canonical form, and the same for sequences of
bytes. -/

namespace Sys2Proof.Machine

@[simp] theorem Memory.read_write_self (m : Memory) (a : Nat) (v : Byte) :
    Memory.read (Memory.write m a v) a = some v := by
  induction m with
  | nil => simp [Memory.write, Memory.read]
  | cons c rest ih =>
    obtain ⟨k, x⟩ := c
    simp only [Memory.write]
    split
    · simp [Memory.read]
    · split
      · simp [Memory.read]
      · have hk : k ≠ a := fun h => by omega
        simp [Memory.read, hk, ih]

theorem Memory.read_write_other (m : Memory) {a b : Nat} (v : Byte) (h : b ≠ a) :
    Memory.read (Memory.write m a v) b = Memory.read m b := by
  induction m with
  | nil => simp [Memory.write, Memory.read, h.symm]
  | cons c rest ih =>
    obtain ⟨k, x⟩ := c
    simp only [Memory.write]
    split
    · simp [Memory.read, h.symm]
    · split
      · rename_i hk
        subst hk
        simp [Memory.read, h.symm]
      · simp only [Memory.read, ih]

/-- Reading after a write, in one equation. -/
theorem Memory.read_write (m : Memory) (a b : Nat) (v : Byte) :
    Memory.read (Memory.write m a v) b = if b = a then some v else Memory.read m b := by
  split
  · rename_i h
    rw [h, Memory.read_write_self]
  · exact Memory.read_write_other m v ‹_›

/-- Every address in the list is above `lo`. -/
def Memory.above (lo : Nat) (m : Memory) : Prop := ∀ c ∈ m, lo < c.1

theorem Memory.wf_cons {k : Nat} {v : Byte} {m : Memory} :
    Memory.wf ((k, v) :: m) = true ↔ Memory.above k m ∧ Memory.wf m = true := by
  induction m generalizing k v with
  | nil => simp [Memory.wf, Memory.above]
  | cons c rest ih =>
    obtain ⟨k', v'⟩ := c
    have hw : Memory.wf ((k, v) :: (k', v') :: rest) =
        (decide (k < k') && Memory.wf ((k', v') :: rest)) := rfl
    rw [hw, Bool.and_eq_true, decide_eq_true_eq]
    constructor
    · rintro ⟨hk, hr⟩
      refine ⟨?_, hr⟩
      intro c hc
      rcases List.mem_cons.1 hc with rfl | hc
      · exact hk
      · exact lt_trans hk ((ih.1 hr).1 c hc)
    · rintro ⟨ha, hr⟩
      exact ⟨ha (k', v') (by simp), hr⟩

theorem Memory.above_write {lo a : Nat} {v : Byte} {m : Memory} (ha : lo < a) (hm : Memory.above lo m) :
    Memory.above lo (Memory.write m a v) := by
  induction m with
  | nil => intro c hc; simp only [Memory.write, List.mem_singleton] at hc; subst hc; exact ha
  | cons c rest ih =>
    obtain ⟨k, x⟩ := c
    have hrest : Memory.above lo rest := fun c hc => hm c (List.mem_cons_of_mem _ hc)
    intro c hc
    simp only [Memory.write] at hc
    split at hc
    · rcases List.mem_cons.1 hc with rfl | hc
      · exact ha
      · exact hm c hc
    · split at hc
      · rcases List.mem_cons.1 hc with rfl | hc
        · exact ha
        · exact hrest c hc
      · rcases List.mem_cons.1 hc with rfl | hc
        · exact hm _ (by simp)
        · exact ih hrest c hc

/-- A write keeps the canonical form. -/
theorem Memory.wf_write {m : Memory} (a : Nat) (v : Byte) (h : Memory.wf m = true) :
    Memory.wf (Memory.write m a v) = true := by
  induction m with
  | nil => rfl
  | cons c rest ih =>
    obtain ⟨k, x⟩ := c
    obtain ⟨hab, hr⟩ := Memory.wf_cons.1 h
    simp only [Memory.write]
    split
    · rename_i hlt
      refine Memory.wf_cons.2 ⟨?_, h⟩
      intro c hc
      rcases List.mem_cons.1 hc with rfl | hc
      · exact hlt
      · exact lt_trans hlt (hab c hc)
    · split
      · rename_i heq
        subst heq
        exact Memory.wf_cons.2 ⟨hab, hr⟩
      · exact Memory.wf_cons.2 ⟨Memory.above_write (by omega) hab, ih hr⟩

/-- A sequence of writes keeps the canonical form. -/
theorem wf_writeBytes {m : Memory} (a : Nat) (vs : List Byte) (h : Memory.wf m = true) :
    Memory.wf (writeBytes m a vs) = true := by
  induction vs generalizing m a with
  | nil => exact h
  | cons v vs ih => exact ih (a + 1) (Memory.wf_write a v h)

/-- `MemWrite` keeps the canonical form. -/
theorem wf_memWrite {m : Memory} (a n v : Nat) (h : Memory.wf m = true) :
    Memory.wf (memWrite m a n v) = true := wf_writeBytes a _ h

/-- Outside the bytes written, a sequence of writes changes nothing. -/
theorem read_writeBytes_outside (m : Memory) (a k : Nat) (vs : List Byte) (h : k < a ∨ a + vs.length ≤ k) :
    Memory.read (writeBytes m a vs) k = Memory.read m k := by
  induction vs generalizing m a with
  | nil => rfl
  | cons v vs ih =>
    simp only [List.length_cons] at h
    rw [writeBytes, ih _ _ (by omega), Memory.read_write_other _ _ (by omega)]

/-- Inside the bytes written, each byte reads back. -/
theorem read_writeBytes_inside (m : Memory) (a k : Nat) (vs : List Byte) (h : k < vs.length) :
    Memory.read (writeBytes m a vs) (a + k) = vs[k]? := by
  induction vs generalizing m a k with
  | nil => simp at h
  | cons v vs ih =>
    rw [writeBytes]
    cases k with
    | zero => rw [read_writeBytes_outside _ _ _ _ (by omega)]; simp
    | succ k =>
      have : a + (k + 1) = a + 1 + k := by omega
      rw [this, ih _ _ _ (by simpa using h)]; simp

/-- `readBytes` in terms of single bytes. -/
theorem readBytes_eq_some {m : Memory} {a n : Nat} {vs : List Byte} :
    readBytes m a n = some vs ↔ vs.length = n ∧ ∀ k, k < n → Memory.read m (a + k) = vs[k]? := by
  induction n generalizing a vs with
  | zero =>
    simp only [readBytes, Option.some.injEq, Nat.not_lt_zero, false_implies, implies_true, and_true]
    constructor
    · rintro rfl; rfl
    · intro h; exact (List.eq_nil_of_length_eq_zero h).symm
  | succ n ih =>
    rw [readBytes]
    constructor
    · intro h
      cases hx : Memory.read m a with
      | none => simp [hx] at h
      | some x =>
        cases hr : readBytes m (a + 1) n with
        | none => simp [hx, hr] at h
        | some xs =>
          simp only [hx, hr, Option.some.injEq] at h
          subst h
          obtain ⟨hl, hb⟩ := ih.1 hr
          refine ⟨by simp [hl], fun k hk => ?_⟩
          cases k with
          | zero => simpa using hx
          | succ k =>
            have : a + (k + 1) = a + 1 + k := by omega
            rw [this, hb k (by omega)]; simp
    · rintro ⟨hl, hb⟩
      cases vs with
      | nil => simp at hl
      | cons x xs =>
        have h0 : Memory.read m a = some x := by simpa using hb 0 (by omega)
        have hr : readBytes m (a + 1) n = some xs := by
          refine ih.2 ⟨by simpa using hl, fun k hk => ?_⟩
          have := hb (k + 1) (by omega)
          have e : a + (k + 1) = a + 1 + k := by omega
          rw [e] at this
          simpa using this
        simp [h0, hr]

/-- Bytes that all hold a value can be read. -/
theorem readBytes_isSome {m : Memory} {a n : Nat} (h : ∀ k, k < n → (Memory.read m (a + k)).isSome = true) :
    ∃ vs, readBytes m a n = some vs := by
  induction n generalizing a with
  | zero => exact ⟨[], rfl⟩
  | succ n ih =>
    obtain ⟨x, hx⟩ := Option.isSome_iff_exists.1 (h 0 (by omega))
    obtain ⟨xs, hxs⟩ := @ih (a + 1) (fun k hk => by
      have := h (k + 1) (by omega)
      have e : a + (k + 1) = a + 1 + k := by omega
      rwa [e] at this)
    exact ⟨x :: xs, by simp only [Nat.add_zero] at hx; simp [readBytes, hx, hxs]⟩

end Sys2Proof.Machine
end

