-- ==== Sys2Proof/Laws/Filled.lean ====
section
/-! SUPPORT. Bytes that hold a value: what a sequence of writes fills, and what can then be read; entries of the word arrays;
strings of digits. -/

namespace Sys2Proof.Machine

/-- What was written from 0 on holds values. -/
theorem filled_writeBytes {m : Memory} {xs : List Byte} {n : Nat} (h : n ≤ xs.length) :
    filled (writeBytes m 0 xs) n := by
  intro k hk
  have := read_writeBytes_inside m 0 k xs (by omega)
  rw [Nat.zero_add] at this
  rw [this, List.getElem?_eq_getElem (by omega)]
  rfl

/-- Appending to a filled buffer. -/
theorem filled_append {m : Memory} {xs : List Byte} {n : Nat} (h : filled m n) :
    filled (writeBytes m n xs) (n + xs.length) := by
  intro k hk
  by_cases hkn : k < n
  · rw [read_writeBytes_outside _ _ _ _ (by omega)]
    exact h k hkn
  · obtain ⟨j, rfl⟩ := Nat.exists_eq_add_of_le (Nat.le_of_not_lt hkn)
    rw [read_writeBytes_inside _ _ _ _ (by omega), List.getElem?_eq_getElem (by omega)]
    rfl

/-- A write anywhere leaves a filled buffer filled. -/
theorem filled_writeBytes_any {m : Memory} {a : Nat} {xs : List Byte} {n : Nat} (h : filled m n) :
    filled (writeBytes m a xs) n := by
  intro k hk
  by_cases hka : k < a ∨ a + xs.length ≤ k
  · rw [read_writeBytes_outside _ _ _ _ hka]
    exact h k hk
  · obtain ⟨j, rfl⟩ := Nat.exists_eq_add_of_le (show a ≤ k by omega)
    rw [read_writeBytes_inside _ _ _ _ (by omega), List.getElem?_eq_getElem (by omega)]
    rfl

/-- A filled buffer can be read whole. -/
theorem readBytes_of_filled {m : Memory} {n : Nat} (h : filled m n) :
    ∃ xs, readBytes m 0 n = some xs ∧ xs.length = n := by
  obtain ⟨xs, hx⟩ := readBytes_isSome (m := m) (a := 0) (n := n) (by simpa [filled] using h)
  exact ⟨xs, hx, (readBytes_eq_some.1 hx).1⟩

/-- A buffer with a byte missing cannot be read whole. -/
theorem readBytes_of_not_filled {m : Memory} {n : Nat} (h : ¬filled m n) : readBytes m 0 n = none := by
  cases hx : readBytes m 0 n with
  | none => rfl
  | some xs =>
    refine absurd (fun k hk => ?_) h
    obtain ⟨hl, hr⟩ := readBytes_eq_some.1 hx
    have := hr k hk
    rw [Nat.zero_add] at this
    rw [this, List.getElem?_eq_getElem (by omega)]
    rfl

/-- A byte of what is latched from a window. -/
theorem windowBytes_getElem? {s : State} {win : Window} {n k : Nat} (h : k < n) :
    (windowBytes s win n)[k]? = some (windowByte s win k) := by
  simp [windowBytes, h]

/-- Nothing supplied agrees with whatever the inputs hold. -/
theorem supplyInv_of_nothing {s : State} (h : s.supply = .nothing) : supplyInv s := by
  unfold supplyInv
  rw [h]
  exact ⟨rfl, rfl, nofun, nofun, nofun, nofun, nofun, nofun, fun _ => rfl⟩

/-- Only the inputs, what was supplied and `BUSY` matter. -/
theorem supplyInv_congr {s t : State} (h : supplyInv s) (hs : t.supply = s.supply) (hw : t.wIn = s.wIn) (hr : t.rIn = s.rIn)
    (hk : t.klenIn = s.klenIn) (hp : t.plenIn = s.plenIn) (hkm : t.keymem = s.keymem) (him : t.inmem = s.inmem)
    (hb : t.busy = s.busy) : supplyInv t := by
  unfold supplyInv at h ⊢
  rwa [hs, hw, hr, hk, hp, hkm, him, hb]

/-- `MemRead` inside a filled buffer finds a value. -/
theorem memRead_of_filled {m : Memory} {a n len : Nat} (h : filled m len) (hle : a + n ≤ len) :
    ∃ x, memRead m a n = some x := by
  obtain ⟨xs, hx⟩ := readBytes_isSome (m := m) (a := a) (n := n) (fun k hk => h _ (by omega))
  exact ⟨leWord xs, by rw [memRead, hx]; rfl⟩

/-- `MemRead` of a half-block is a word (R164). -/
theorem memRead_lt {m : Memory} {a x : Nat} {w : WordSize} (h : memRead m a (wordBytes w) = some x) :
    x < 2 ^ w.bits := by
  unfold memRead at h
  cases hx : readBytes m a (wordBytes w) with
  | none => simp [hx] at h
  | some xs =>
    simp only [hx, Option.map_some, Option.some.injEq] at h
    subst h
    have hl := leWord_lt xs
    rwa [(readBytes_eq_some.1 hx).1, ← bits_eq] at hl

/-- Writing a word keeps an array bounded (R143). -/
theorem wordsBounded_set {w : WordSize} {xs : List Nat} {n v : Nat} (h : wordsBounded w xs) (hv : v < 2 ^ w.bits) :
    wordsBounded w (xs.set n v) := by
  intro x hx
  rcases List.mem_or_eq_of_mem_set hx with hx | rfl
  · exact h x hx
  · exact hv

/-- Byte `k` of `le_bytes` (R24). -/
theorem leBytes_getElem? (u x k : Nat) (h : k < u) : (leBytes u x)[k]? = some (BitVec.ofNat 8 (x / 256 ^ k)) := by
  induction u generalizing x k with
  | zero => omega
  | succ u ih =>
    cases k with
    | zero => simp [leBytes]
    | succ k =>
      rw [leBytes, List.getElem?_cons_succ, ih _ _ (by omega), Nat.div_div_eq_div_mul, pow_succ']

/-- An even number of digits decodes, to half as many bytes (R198). -/
theorem hexDecode_of_allDigits (case : HexInCase) (n : Nat) (xs : List Byte) (hl : xs.length = 2 * n)
    (hd : allDigits case xs = true) : ∃ ys, hexDecode case xs = some ys ∧ ys.length = n := by
  induction n generalizing xs with
  | zero => exact ⟨[], by rw [List.eq_nil_of_length_eq_zero hl]; rfl, rfl⟩
  | succ n ih =>
    match xs, hl with
    | x :: y :: rest, hl =>
      simp only [allDigits, List.all_cons, Bool.and_eq_true] at hd
      obtain ⟨hi, hhi⟩ := Option.isSome_iff_exists.1 hd.1
      obtain ⟨lo, hlo⟩ := Option.isSome_iff_exists.1 hd.2.1
      obtain ⟨ys, hy, hyl⟩ := ih rest (by simp only [List.length_cons] at hl; omega) hd.2.2
      exact ⟨BitVec.ofNat 8 (16 * hi + lo) :: ys, by simp only [hexDecode, hhi, hlo, hy], by simp [hyl]⟩

end Sys2Proof.Machine
end

