-- ==== Sys2Proof/Laws/State.lean ====
section
/-! SUPPORT. One lemma per field per named update of the state, true by `rfl`, so that no proof unfolds a record update. -/

namespace Sys2Proof.Machine

/-! ### `goto`: only `PH` changes -/

@[simp] theorem goto_idle_ph (s : State) : (goto .idle s).ph = 0x00#5 := rfl
@[simp] theorem goto_validate_ph (s : State) : (goto .validate s).ph = 0x01#5 := rfl
@[simp] theorem goto_ksel_ph (s : State) : (goto .ksel s).ph = 0x02#5 := rfl
@[simp] theorem goto_kpack_ph (s : State) : (goto .kpack s).ph = 0x03#5 := rfl
@[simp] theorem goto_sinit_ph (s : State) : (goto .sinit s).ph = 0x04#5 := rfl
@[simp] theorem goto_kmix0_ph (s : State) : (goto .kmix0 s).ph = 0x05#5 := rfl
@[simp] theorem goto_kmix_ph (s : State) : (goto .kmix s).ph = 0x06#5 := rfl
@[simp] theorem goto_loadp_ph (s : State) : (goto .loadp s).ph = 0x07#5 := rfl
@[simp] theorem goto_hexdec_ph (s : State) : (goto .hexdec s).ph = 0x08#5 := rfl
@[simp] theorem goto_lenchk_ph (s : State) : (goto .lenchk s).ph = 0x09#5 := rfl
@[simp] theorem goto_pad_ph (s : State) : (goto .pad s).ph = 0x0A#5 := rfl
@[simp] theorem goto_blkld_ph (s : State) : (goto .blkld s).ph = 0x0B#5 := rfl
@[simp] theorem goto_enc0_ph (s : State) : (goto .enc0 s).ph = 0x0C#5 := rfl
@[simp] theorem goto_enca_ph (s : State) : (goto .enca s).ph = 0x0D#5 := rfl
@[simp] theorem goto_encb_ph (s : State) : (goto .encb s).ph = 0x0E#5 := rfl
@[simp] theorem goto_blkst_ph (s : State) : (goto .blkst s).ph = 0x0F#5 := rfl
@[simp] theorem goto_decb_ph (s : State) : (goto .decb s).ph = 0x10#5 := rfl
@[simp] theorem goto_deca_ph (s : State) : (goto .deca s).ph = 0x11#5 := rfl
@[simp] theorem goto_dec0_ph (s : State) : (goto .dec0 s).ph = 0x12#5 := rfl
@[simp] theorem goto_unpad_ph (s : State) : (goto .unpad s).ph = 0x13#5 := rfl
@[simp] theorem goto_hexenc_ph (s : State) : (goto .hexenc s).ph = 0x14#5 := rfl
@[simp] theorem goto_storep_ph (s : State) : (goto .storep s).ph = 0x15#5 := rfl
@[simp] theorem goto_finish_ph (s : State) : (goto .finish s).ph = 0x16#5 := rfl
@[simp] theorem goto_fail_ph (s : State) : (goto .fail s).ph = 0x17#5 := rfl

@[simp] theorem goto_cfg (i : Instr) (s : State) : (goto i s).cfg = s.cfg := by cases i <;> rfl
@[simp] theorem goto_cmd (i : Instr) (s : State) : (goto i s).cmd = s.cmd := by cases i <;> rfl
@[simp] theorem goto_busy (i : Instr) (s : State) : (goto i s).busy = s.busy := by cases i <;> rfl
@[simp] theorem goto_done (i : Instr) (s : State) : (goto i s).done = s.done := by cases i <;> rfl
@[simp] theorem goto_err (i : Instr) (s : State) : (goto i s).err = s.err := by cases i <;> rfl
@[simp] theorem goto_errcode (i : Instr) (s : State) : (goto i s).errcode = s.errcode := by cases i <;> rfl
@[simp] theorem goto_wIn (i : Instr) (s : State) : (goto i s).wIn = s.wIn := by cases i <;> rfl
@[simp] theorem goto_rIn (i : Instr) (s : State) : (goto i s).rIn = s.rIn := by cases i <;> rfl
@[simp] theorem goto_klenIn (i : Instr) (s : State) : (goto i s).klenIn = s.klenIn := by cases i <;> rfl
@[simp] theorem goto_plenIn (i : Instr) (s : State) : (goto i s).plenIn = s.plenIn := by cases i <;> rfl
@[simp] theorem goto_olen (i : Instr) (s : State) : (goto i s).olen = s.olen := by cases i <;> rfl
@[simp] theorem goto_keymem (i : Instr) (s : State) : (goto i s).keymem = s.keymem := by cases i <;> rfl
@[simp] theorem goto_inmem (i : Instr) (s : State) : (goto i s).inmem = s.inmem := by cases i <;> rfl
@[simp] theorem goto_outmem (i : Instr) (s : State) : (goto i s).outmem = s.outmem := by cases i <;> rfl
@[simp] theorem goto_desc (i : Instr) (s : State) : (goto i s).desc = s.desc := by cases i <;> rfl
@[simp] theorem goto_kind (i : Instr) (s : State) : (goto i s).kind = s.kind := by cases i <;> rfl
@[simp] theorem goto_w (i : Instr) (s : State) : (goto i s).w = s.w := by cases i <;> rfl
@[simp] theorem goto_r (i : Instr) (s : State) : (goto i s).r = s.r := by cases i <;> rfl
@[simp] theorem goto_blen (i : Instr) (s : State) : (goto i s).blen = s.blen := by cases i <;> rfl
@[simp] theorem goto_p (i : Instr) (s : State) : (goto i s).p = s.p := by cases i <;> rfl
@[simp] theorem goto_q (i : Instr) (s : State) : (goto i s).q = s.q := by cases i <;> rfl
@[simp] theorem goto_key (i : Instr) (s : State) : (goto i s).key = s.key := by cases i <;> rfl
@[simp] theorem goto_l (i : Instr) (s : State) : (goto i s).l = s.l := by cases i <;> rfl
@[simp] theorem goto_sch (i : Instr) (s : State) : (goto i s).sch = s.sch := by cases i <;> rfl
@[simp] theorem goto_ka (i : Instr) (s : State) : (goto i s).ka = s.ka := by cases i <;> rfl
@[simp] theorem goto_kb (i : Instr) (s : State) : (goto i s).kb = s.kb := by cases i <;> rfl
@[simp] theorem goto_i (i : Instr) (s : State) : (goto i s).i = s.i := by cases i <;> rfl
@[simp] theorem goto_j (i : Instr) (s : State) : (goto i s).j = s.j := by cases i <;> rfl
@[simp] theorem goto_n (i : Instr) (s : State) : (goto i s).n = s.n := by cases i <;> rfl
@[simp] theorem goto_a (i : Instr) (s : State) : (goto i s).a = s.a := by cases i <;> rfl
@[simp] theorem goto_b (i : Instr) (s : State) : (goto i s).b = s.b := by cases i <;> rfl
@[simp] theorem goto_rc (i : Instr) (s : State) : (goto i s).rc = s.rc := by cases i <;> rfl
@[simp] theorem goto_blk (i : Instr) (s : State) : (goto i s).blk = s.blk := by cases i <;> rfl
@[simp] theorem goto_buf (i : Instr) (s : State) : (goto i s).buf = s.buf := by cases i <;> rfl
@[simp] theorem goto_len (i : Instr) (s : State) : (goto i s).len = s.len := by cases i <;> rfl
@[simp] theorem goto_host (i : Instr) (s : State) : (goto i s).host = s.host := by cases i <;> rfl
@[simp] theorem goto_supply (i : Instr) (s : State) : (goto i s).supply = s.supply := by cases i <;> rfl
@[simp] theorem goto_rdata (i : Instr) (s : State) : (goto i s).rdata = s.rdata := by cases i <;> rfl
@[simp] theorem goto_epoch (i : Instr) (s : State) : (goto i s).epoch = s.epoch := by cases i <;> rfl
@[simp] theorem goto_fresh (i : Instr) (s : State) : (goto i s).fresh = s.fresh := by cases i <;> rfl

/-! ### `tick`: only the count changes -/

@[simp] theorem tick_cfg (c : Nat) (s : State) : (tick c s).cfg = s.cfg := rfl
@[simp] theorem tick_ph (c : Nat) (s : State) : (tick c s).ph = s.ph := rfl
@[simp] theorem tick_cmd (c : Nat) (s : State) : (tick c s).cmd = s.cmd := rfl
@[simp] theorem tick_busy (c : Nat) (s : State) : (tick c s).busy = s.busy := rfl
@[simp] theorem tick_done (c : Nat) (s : State) : (tick c s).done = s.done := rfl
@[simp] theorem tick_err (c : Nat) (s : State) : (tick c s).err = s.err := rfl
@[simp] theorem tick_errcode (c : Nat) (s : State) : (tick c s).errcode = s.errcode := rfl
@[simp] theorem tick_wIn (c : Nat) (s : State) : (tick c s).wIn = s.wIn := rfl
@[simp] theorem tick_rIn (c : Nat) (s : State) : (tick c s).rIn = s.rIn := rfl
@[simp] theorem tick_klenIn (c : Nat) (s : State) : (tick c s).klenIn = s.klenIn := rfl
@[simp] theorem tick_plenIn (c : Nat) (s : State) : (tick c s).plenIn = s.plenIn := rfl
@[simp] theorem tick_olen (c : Nat) (s : State) : (tick c s).olen = s.olen := rfl
@[simp] theorem tick_keymem (c : Nat) (s : State) : (tick c s).keymem = s.keymem := rfl
@[simp] theorem tick_inmem (c : Nat) (s : State) : (tick c s).inmem = s.inmem := rfl
@[simp] theorem tick_outmem (c : Nat) (s : State) : (tick c s).outmem = s.outmem := rfl
@[simp] theorem tick_desc (c : Nat) (s : State) : (tick c s).desc = s.desc := rfl
@[simp] theorem tick_kind (c : Nat) (s : State) : (tick c s).kind = s.kind := rfl
@[simp] theorem tick_w (c : Nat) (s : State) : (tick c s).w = s.w := rfl
@[simp] theorem tick_r (c : Nat) (s : State) : (tick c s).r = s.r := rfl
@[simp] theorem tick_blen (c : Nat) (s : State) : (tick c s).blen = s.blen := rfl
@[simp] theorem tick_p (c : Nat) (s : State) : (tick c s).p = s.p := rfl
@[simp] theorem tick_q (c : Nat) (s : State) : (tick c s).q = s.q := rfl
@[simp] theorem tick_key (c : Nat) (s : State) : (tick c s).key = s.key := rfl
@[simp] theorem tick_l (c : Nat) (s : State) : (tick c s).l = s.l := rfl
@[simp] theorem tick_sch (c : Nat) (s : State) : (tick c s).sch = s.sch := rfl
@[simp] theorem tick_ka (c : Nat) (s : State) : (tick c s).ka = s.ka := rfl
@[simp] theorem tick_kb (c : Nat) (s : State) : (tick c s).kb = s.kb := rfl
@[simp] theorem tick_i (c : Nat) (s : State) : (tick c s).i = s.i := rfl
@[simp] theorem tick_j (c : Nat) (s : State) : (tick c s).j = s.j := rfl
@[simp] theorem tick_n (c : Nat) (s : State) : (tick c s).n = s.n := rfl
@[simp] theorem tick_a (c : Nat) (s : State) : (tick c s).a = s.a := rfl
@[simp] theorem tick_b (c : Nat) (s : State) : (tick c s).b = s.b := rfl
@[simp] theorem tick_rc (c : Nat) (s : State) : (tick c s).rc = s.rc := rfl
@[simp] theorem tick_blk (c : Nat) (s : State) : (tick c s).blk = s.blk := rfl
@[simp] theorem tick_buf (c : Nat) (s : State) : (tick c s).buf = s.buf := rfl
@[simp] theorem tick_len (c : Nat) (s : State) : (tick c s).len = s.len := rfl
@[simp] theorem tick_host (c : Nat) (s : State) : (tick c s).host = s.host := rfl
@[simp] theorem tick_supply (c : Nat) (s : State) : (tick c s).supply = s.supply := rfl
@[simp] theorem tick_rdata (c : Nat) (s : State) : (tick c s).rdata = s.rdata := rfl
@[simp] theorem tick_epoch (c : Nat) (s : State) : (tick c s).epoch = s.epoch := rfl
@[simp] theorem tick_fresh (c : Nat) (s : State) : (tick c s).fresh = s.fresh + c := rfl

/-! ### `clearInternal`: the registers and arrays of R32 to R39 hold no value, the rest is unchanged -/

@[simp] theorem clearInternal_cfg (s : State) : (clearInternal s).cfg = s.cfg := rfl
@[simp] theorem clearInternal_ph (s : State) : (clearInternal s).ph = s.ph := rfl
@[simp] theorem clearInternal_cmd (s : State) : (clearInternal s).cmd = s.cmd := rfl
@[simp] theorem clearInternal_busy (s : State) : (clearInternal s).busy = s.busy := rfl
@[simp] theorem clearInternal_done (s : State) : (clearInternal s).done = s.done := rfl
@[simp] theorem clearInternal_err (s : State) : (clearInternal s).err = s.err := rfl
@[simp] theorem clearInternal_errcode (s : State) : (clearInternal s).errcode = s.errcode := rfl
@[simp] theorem clearInternal_wIn (s : State) : (clearInternal s).wIn = s.wIn := rfl
@[simp] theorem clearInternal_rIn (s : State) : (clearInternal s).rIn = s.rIn := rfl
@[simp] theorem clearInternal_klenIn (s : State) : (clearInternal s).klenIn = s.klenIn := rfl
@[simp] theorem clearInternal_plenIn (s : State) : (clearInternal s).plenIn = s.plenIn := rfl
@[simp] theorem clearInternal_olen (s : State) : (clearInternal s).olen = s.olen := rfl
@[simp] theorem clearInternal_keymem (s : State) : (clearInternal s).keymem = s.keymem := rfl
@[simp] theorem clearInternal_inmem (s : State) : (clearInternal s).inmem = s.inmem := rfl
@[simp] theorem clearInternal_outmem (s : State) : (clearInternal s).outmem = s.outmem := rfl
@[simp] theorem clearInternal_desc (s : State) : (clearInternal s).desc = s.desc := rfl
@[simp] theorem clearInternal_kind (s : State) : (clearInternal s).kind = s.kind := rfl
@[simp] theorem clearInternal_w (s : State) : (clearInternal s).w = none := rfl
@[simp] theorem clearInternal_r (s : State) : (clearInternal s).r = none := rfl
@[simp] theorem clearInternal_blen (s : State) : (clearInternal s).blen = none := rfl
@[simp] theorem clearInternal_p (s : State) : (clearInternal s).p = none := rfl
@[simp] theorem clearInternal_q (s : State) : (clearInternal s).q = none := rfl
@[simp] theorem clearInternal_key (s : State) : (clearInternal s).key = [] := rfl
@[simp] theorem clearInternal_l (s : State) : (clearInternal s).l = [] := rfl
@[simp] theorem clearInternal_sch (s : State) : (clearInternal s).sch = [] := rfl
@[simp] theorem clearInternal_ka (s : State) : (clearInternal s).ka = none := rfl
@[simp] theorem clearInternal_kb (s : State) : (clearInternal s).kb = none := rfl
@[simp] theorem clearInternal_i (s : State) : (clearInternal s).i = none := rfl
@[simp] theorem clearInternal_j (s : State) : (clearInternal s).j = none := rfl
@[simp] theorem clearInternal_n (s : State) : (clearInternal s).n = none := rfl
@[simp] theorem clearInternal_a (s : State) : (clearInternal s).a = none := rfl
@[simp] theorem clearInternal_b (s : State) : (clearInternal s).b = none := rfl
@[simp] theorem clearInternal_rc (s : State) : (clearInternal s).rc = none := rfl
@[simp] theorem clearInternal_blk (s : State) : (clearInternal s).blk = none := rfl
@[simp] theorem clearInternal_buf (s : State) : (clearInternal s).buf = [] := rfl
@[simp] theorem clearInternal_len (s : State) : (clearInternal s).len = none := rfl
@[simp] theorem clearInternal_host (s : State) : (clearInternal s).host = s.host := rfl
@[simp] theorem clearInternal_supply (s : State) : (clearInternal s).supply = s.supply := rfl
@[simp] theorem clearInternal_rdata (s : State) : (clearInternal s).rdata = s.rdata := rfl
@[simp] theorem clearInternal_epoch (s : State) : (clearInternal s).epoch = s.epoch := rfl
@[simp] theorem clearInternal_fresh (s : State) : (clearInternal s).fresh = s.fresh := rfl

@[simp] theorem clearInternal_idem (s : State) : clearInternal (clearInternal s) = clearInternal s := rfl

/-! ### `flagsStart` -/

@[simp] theorem flagsStart_cfg (s : State) : (flagsStart s).cfg = s.cfg := rfl
@[simp] theorem flagsStart_ph (s : State) : (flagsStart s).ph = s.ph := rfl
@[simp] theorem flagsStart_cmd (s : State) : (flagsStart s).cmd = s.cmd := rfl
@[simp] theorem flagsStart_busy (s : State) : (flagsStart s).busy = true := rfl
@[simp] theorem flagsStart_done (s : State) : (flagsStart s).done = false := rfl
@[simp] theorem flagsStart_err (s : State) : (flagsStart s).err = false := rfl
@[simp] theorem flagsStart_errcode (s : State) : (flagsStart s).errcode = 0#8 := rfl
@[simp] theorem flagsStart_wIn (s : State) : (flagsStart s).wIn = s.wIn := rfl
@[simp] theorem flagsStart_rIn (s : State) : (flagsStart s).rIn = s.rIn := rfl
@[simp] theorem flagsStart_klenIn (s : State) : (flagsStart s).klenIn = s.klenIn := rfl
@[simp] theorem flagsStart_plenIn (s : State) : (flagsStart s).plenIn = s.plenIn := rfl
@[simp] theorem flagsStart_olen (s : State) : (flagsStart s).olen = 0#32 := rfl
@[simp] theorem flagsStart_keymem (s : State) : (flagsStart s).keymem = s.keymem := rfl
@[simp] theorem flagsStart_inmem (s : State) : (flagsStart s).inmem = s.inmem := rfl
@[simp] theorem flagsStart_outmem (s : State) : (flagsStart s).outmem = s.outmem := rfl
@[simp] theorem flagsStart_desc (s : State) : (flagsStart s).desc = s.desc := rfl
@[simp] theorem flagsStart_kind (s : State) : (flagsStart s).kind = s.kind := rfl
@[simp] theorem flagsStart_w (s : State) : (flagsStart s).w = s.w := rfl
@[simp] theorem flagsStart_r (s : State) : (flagsStart s).r = s.r := rfl
@[simp] theorem flagsStart_blen (s : State) : (flagsStart s).blen = s.blen := rfl
@[simp] theorem flagsStart_p (s : State) : (flagsStart s).p = s.p := rfl
@[simp] theorem flagsStart_q (s : State) : (flagsStart s).q = s.q := rfl
@[simp] theorem flagsStart_key (s : State) : (flagsStart s).key = s.key := rfl
@[simp] theorem flagsStart_l (s : State) : (flagsStart s).l = s.l := rfl
@[simp] theorem flagsStart_sch (s : State) : (flagsStart s).sch = s.sch := rfl
@[simp] theorem flagsStart_ka (s : State) : (flagsStart s).ka = s.ka := rfl
@[simp] theorem flagsStart_kb (s : State) : (flagsStart s).kb = s.kb := rfl
@[simp] theorem flagsStart_i (s : State) : (flagsStart s).i = s.i := rfl
@[simp] theorem flagsStart_j (s : State) : (flagsStart s).j = s.j := rfl
@[simp] theorem flagsStart_n (s : State) : (flagsStart s).n = s.n := rfl
@[simp] theorem flagsStart_a (s : State) : (flagsStart s).a = s.a := rfl
@[simp] theorem flagsStart_b (s : State) : (flagsStart s).b = s.b := rfl
@[simp] theorem flagsStart_rc (s : State) : (flagsStart s).rc = s.rc := rfl
@[simp] theorem flagsStart_blk (s : State) : (flagsStart s).blk = s.blk := rfl
@[simp] theorem flagsStart_buf (s : State) : (flagsStart s).buf = s.buf := rfl
@[simp] theorem flagsStart_len (s : State) : (flagsStart s).len = s.len := rfl
@[simp] theorem flagsStart_host (s : State) : (flagsStart s).host = s.host := rfl
@[simp] theorem flagsStart_supply (s : State) : (flagsStart s).supply = s.supply := rfl
@[simp] theorem flagsStart_rdata (s : State) : (flagsStart s).rdata = s.rdata := rfl
@[simp] theorem flagsStart_epoch (s : State) : (flagsStart s).epoch = s.epoch := rfl
@[simp] theorem flagsStart_fresh (s : State) : (flagsStart s).fresh = s.fresh := rfl

/-! ### `flagsFinish` -/

@[simp] theorem flagsFinish_cfg (s : State) : (flagsFinish s).cfg = s.cfg := rfl
@[simp] theorem flagsFinish_ph (s : State) : (flagsFinish s).ph = s.ph := rfl
@[simp] theorem flagsFinish_cmd (s : State) : (flagsFinish s).cmd = s.cmd := rfl
@[simp] theorem flagsFinish_busy (s : State) : (flagsFinish s).busy = false := rfl
@[simp] theorem flagsFinish_done (s : State) : (flagsFinish s).done = true := rfl
@[simp] theorem flagsFinish_err (s : State) : (flagsFinish s).err = false := rfl
@[simp] theorem flagsFinish_errcode (s : State) : (flagsFinish s).errcode = 0#8 := rfl
@[simp] theorem flagsFinish_wIn (s : State) : (flagsFinish s).wIn = s.wIn := rfl
@[simp] theorem flagsFinish_rIn (s : State) : (flagsFinish s).rIn = s.rIn := rfl
@[simp] theorem flagsFinish_klenIn (s : State) : (flagsFinish s).klenIn = s.klenIn := rfl
@[simp] theorem flagsFinish_plenIn (s : State) : (flagsFinish s).plenIn = s.plenIn := rfl
@[simp] theorem flagsFinish_olen (s : State) : (flagsFinish s).olen = s.olen := rfl
@[simp] theorem flagsFinish_keymem (s : State) : (flagsFinish s).keymem = s.keymem := rfl
@[simp] theorem flagsFinish_inmem (s : State) : (flagsFinish s).inmem = s.inmem := rfl
@[simp] theorem flagsFinish_outmem (s : State) : (flagsFinish s).outmem = s.outmem := rfl
@[simp] theorem flagsFinish_desc (s : State) : (flagsFinish s).desc = s.desc := rfl
@[simp] theorem flagsFinish_kind (s : State) : (flagsFinish s).kind = s.kind := rfl
@[simp] theorem flagsFinish_w (s : State) : (flagsFinish s).w = s.w := rfl
@[simp] theorem flagsFinish_r (s : State) : (flagsFinish s).r = s.r := rfl
@[simp] theorem flagsFinish_blen (s : State) : (flagsFinish s).blen = s.blen := rfl
@[simp] theorem flagsFinish_p (s : State) : (flagsFinish s).p = s.p := rfl
@[simp] theorem flagsFinish_q (s : State) : (flagsFinish s).q = s.q := rfl
@[simp] theorem flagsFinish_key (s : State) : (flagsFinish s).key = s.key := rfl
@[simp] theorem flagsFinish_l (s : State) : (flagsFinish s).l = s.l := rfl
@[simp] theorem flagsFinish_sch (s : State) : (flagsFinish s).sch = s.sch := rfl
@[simp] theorem flagsFinish_ka (s : State) : (flagsFinish s).ka = s.ka := rfl
@[simp] theorem flagsFinish_kb (s : State) : (flagsFinish s).kb = s.kb := rfl
@[simp] theorem flagsFinish_i (s : State) : (flagsFinish s).i = s.i := rfl
@[simp] theorem flagsFinish_j (s : State) : (flagsFinish s).j = s.j := rfl
@[simp] theorem flagsFinish_n (s : State) : (flagsFinish s).n = s.n := rfl
@[simp] theorem flagsFinish_a (s : State) : (flagsFinish s).a = s.a := rfl
@[simp] theorem flagsFinish_b (s : State) : (flagsFinish s).b = s.b := rfl
@[simp] theorem flagsFinish_rc (s : State) : (flagsFinish s).rc = s.rc := rfl
@[simp] theorem flagsFinish_blk (s : State) : (flagsFinish s).blk = s.blk := rfl
@[simp] theorem flagsFinish_buf (s : State) : (flagsFinish s).buf = s.buf := rfl
@[simp] theorem flagsFinish_len (s : State) : (flagsFinish s).len = s.len := rfl
@[simp] theorem flagsFinish_host (s : State) : (flagsFinish s).host = s.host := rfl
@[simp] theorem flagsFinish_supply (s : State) : (flagsFinish s).supply = s.supply := rfl
@[simp] theorem flagsFinish_rdata (s : State) : (flagsFinish s).rdata = s.rdata := rfl
@[simp] theorem flagsFinish_epoch (s : State) : (flagsFinish s).epoch = s.epoch := rfl
@[simp] theorem flagsFinish_fresh (s : State) : (flagsFinish s).fresh = s.fresh := rfl

/-! ### `flagsFail` -/

@[simp] theorem flagsFail_cfg (e : FailKind) (s : State) : (flagsFail e s).cfg = s.cfg := rfl
@[simp] theorem flagsFail_ph (e : FailKind) (s : State) : (flagsFail e s).ph = s.ph := rfl
@[simp] theorem flagsFail_cmd (e : FailKind) (s : State) : (flagsFail e s).cmd = s.cmd := rfl
@[simp] theorem flagsFail_busy (e : FailKind) (s : State) : (flagsFail e s).busy = false := rfl
@[simp] theorem flagsFail_done (e : FailKind) (s : State) : (flagsFail e s).done = false := rfl
@[simp] theorem flagsFail_err (e : FailKind) (s : State) : (flagsFail e s).err = true := rfl
@[simp] theorem flagsFail_errcode (e : FailKind) (s : State) : (flagsFail e s).errcode = failCode e := rfl
@[simp] theorem flagsFail_wIn (e : FailKind) (s : State) : (flagsFail e s).wIn = s.wIn := rfl
@[simp] theorem flagsFail_rIn (e : FailKind) (s : State) : (flagsFail e s).rIn = s.rIn := rfl
@[simp] theorem flagsFail_klenIn (e : FailKind) (s : State) : (flagsFail e s).klenIn = s.klenIn := rfl
@[simp] theorem flagsFail_plenIn (e : FailKind) (s : State) : (flagsFail e s).plenIn = s.plenIn := rfl
@[simp] theorem flagsFail_olen (e : FailKind) (s : State) : (flagsFail e s).olen = 0#32 := rfl
@[simp] theorem flagsFail_keymem (e : FailKind) (s : State) : (flagsFail e s).keymem = s.keymem := rfl
@[simp] theorem flagsFail_inmem (e : FailKind) (s : State) : (flagsFail e s).inmem = s.inmem := rfl
@[simp] theorem flagsFail_outmem (e : FailKind) (s : State) : (flagsFail e s).outmem = s.outmem := rfl
@[simp] theorem flagsFail_desc (e : FailKind) (s : State) : (flagsFail e s).desc = s.desc := rfl
@[simp] theorem flagsFail_kind (e : FailKind) (s : State) : (flagsFail e s).kind = s.kind := rfl
@[simp] theorem flagsFail_w (e : FailKind) (s : State) : (flagsFail e s).w = s.w := rfl
@[simp] theorem flagsFail_r (e : FailKind) (s : State) : (flagsFail e s).r = s.r := rfl
@[simp] theorem flagsFail_blen (e : FailKind) (s : State) : (flagsFail e s).blen = s.blen := rfl
@[simp] theorem flagsFail_p (e : FailKind) (s : State) : (flagsFail e s).p = s.p := rfl
@[simp] theorem flagsFail_q (e : FailKind) (s : State) : (flagsFail e s).q = s.q := rfl
@[simp] theorem flagsFail_key (e : FailKind) (s : State) : (flagsFail e s).key = s.key := rfl
@[simp] theorem flagsFail_l (e : FailKind) (s : State) : (flagsFail e s).l = s.l := rfl
@[simp] theorem flagsFail_sch (e : FailKind) (s : State) : (flagsFail e s).sch = s.sch := rfl
@[simp] theorem flagsFail_ka (e : FailKind) (s : State) : (flagsFail e s).ka = s.ka := rfl
@[simp] theorem flagsFail_kb (e : FailKind) (s : State) : (flagsFail e s).kb = s.kb := rfl
@[simp] theorem flagsFail_i (e : FailKind) (s : State) : (flagsFail e s).i = s.i := rfl
@[simp] theorem flagsFail_j (e : FailKind) (s : State) : (flagsFail e s).j = s.j := rfl
@[simp] theorem flagsFail_n (e : FailKind) (s : State) : (flagsFail e s).n = s.n := rfl
@[simp] theorem flagsFail_a (e : FailKind) (s : State) : (flagsFail e s).a = s.a := rfl
@[simp] theorem flagsFail_b (e : FailKind) (s : State) : (flagsFail e s).b = s.b := rfl
@[simp] theorem flagsFail_rc (e : FailKind) (s : State) : (flagsFail e s).rc = s.rc := rfl
@[simp] theorem flagsFail_blk (e : FailKind) (s : State) : (flagsFail e s).blk = s.blk := rfl
@[simp] theorem flagsFail_buf (e : FailKind) (s : State) : (flagsFail e s).buf = s.buf := rfl
@[simp] theorem flagsFail_len (e : FailKind) (s : State) : (flagsFail e s).len = s.len := rfl
@[simp] theorem flagsFail_host (e : FailKind) (s : State) : (flagsFail e s).host = s.host := rfl
@[simp] theorem flagsFail_supply (e : FailKind) (s : State) : (flagsFail e s).supply = s.supply := rfl
@[simp] theorem flagsFail_rdata (e : FailKind) (s : State) : (flagsFail e s).rdata = s.rdata := rfl
@[simp] theorem flagsFail_epoch (e : FailKind) (s : State) : (flagsFail e s).epoch = s.epoch := rfl
@[simp] theorem flagsFail_fresh (e : FailKind) (s : State) : (flagsFail e s).fresh = s.fresh := rfl

end Sys2Proof.Machine
end

