-- ==== Sys2Proof/Laws/Outcome.lean ====
section
/-! SUPPORT. What the shared operations on outcomes can answer: one lemma each, which a proof cites instead of
unfolding the operation. -/

namespace Sys2Proof.Machine

@[simp] theorem need_some {α : Type} (loc : Loc) (v : α) (f : α → Result) : need loc (some v) f = f v := rfl

@[simp] theorem need_none {α : Type} (loc : Loc) (f : α → Result) :
    need loc none f = .fault (.noValue loc) := rfl

theorem need_eq_next {α : Type} {loc : Loc} {x : Option α} {f : α → Result} {t : State} :
    need loc x f = .next t ↔ ∃ v, x = some v ∧ f v = .next t := by
  cases x <;> simp

/-- A read of a register known to hold `v`; unlike rewriting the register itself, this leaves the rest of the state alone. -/
theorem need_of_eq {α : Type} {loc : Loc} {x : Option α} {v : α} {f : α → Result} (h : x = some v) :
    need loc x f = f v := by rw [h, need_some]

/-- A read of a register that holds some value goes on as it would for every value. -/
theorem need_of_isSome {α : Type} {loc : Loc} {x : Option α} {f : α → Result} {r : Result} (h : x.isSome = true)
    (hf : ∀ v, f v = r) : need loc x f = r := by
  obtain ⟨v, rfl⟩ := Option.isSome_iff_exists.1 h
  exact hf v

@[simp] theorem inSpace_true (loc : Loc) (k : Result) : inSpace loc true k = k := rfl

theorem inSpace_eq_next {loc : Loc} {ok : Bool} {k : Result} {t : State} :
    inSpace loc ok k = .next t ↔ ok = true ∧ k = .next t := by
  cases ok <;> simp [inSpace]

/-- `raise` always goes on, to `FAIL`, with the kind handed over and nothing else changed. -/
theorem raise_eq (e : FailKind) (s : State) :
    raise e s = .next { s with kind := some e, ph := 0x17#5 } := rfl

/-- A `CMD` write during a call changes nothing but that it has been taken (R248). -/
theorem startCall_of_busy (op : Option Op) {s : State} (h : s.busy = true) : startCall op s = .next { s with cmd := none } := by
  simp [startCall, h]

/-- A command starts its call: the descriptor is latched, what HOST supplied is used up, and `VALIDATE` is next (R106, R243,
R249). -/
theorem startCall_command (op : Op) {s : State} (h : s.busy = false) :
    startCall (some op) s =
      .next
        { clearInternal (flagsStart s) with
          cmd := none, desc := some (latch op s), kind := none, supply := .nothing, ph := 0x01#5 } := by
  rw [startCall, h]
  rfl

/-- An illegal `CMD` value goes to `FAIL` with `E_ARG`, nothing latched (R90). -/
theorem startCall_illegal {s : State} (h : s.busy = false) :
    startCall none s =
      .next
        { clearInternal (flagsStart s) with
          cmd := none, desc := none, kind := some .arg, supply := .nothing, ph := 0x17#5 } := by
  rw [startCall, h]
  rfl

/-- `FAIL` leaves nothing internal with a value. -/
theorem clearInternal_failCall (e : FailKind) (s : State) : clearInternal (failCall e s) = failCall e s := rfl

/-- `FINISH` leaves nothing internal with a value. -/
theorem clearInternal_finishCall (s : State) : clearInternal (finishCall s) = finishCall s := rfl

/-- A step without a coming move of HOST is a step of ENGINE. -/
theorem step_of_host_nil {s : State} (h : s.host = []) : step s = engineStep s := by
  simp [step, h]

/-- A step with a coming move of HOST is that move. -/
theorem step_of_host_cons {s : State} {m : HostMove} {rest : List HostMove} (h : s.host = m :: rest) :
    step s = moveStep m { s with host := rest } := by
  simp [step, h]

/-- What `deliver` can answer. -/
theorem deliver_eq_next {out : List Byte} {s t : State} :
    deliver out s = .next t ↔
      fits (windowCap s.cfg .outmem) out.length = true ∧
      t = goto .finish { s with outmem := writeBytes s.outmem 0 out, olen := olenOf out.length } := by
  rw [deliver, inSpace_eq_next, Host.Outcome.next.injEq]
  exact and_congr_right fun _ => eq_comm

/-- Whatever `OLEN` holds, it is at most the length of the result. -/
theorem olenOf_le (n : Nat) : (olenOf n).toNat ≤ n := by
  unfold olenOf
  split
  · rw [BitVec.toNat_ofNat]
    exact Nat.mod_le _ _
  · have := (Config.freeOlen n).isLt
    omega

/-- A smaller length fits too. -/
theorem fits_mono {c : Option Nat} {a b : Nat} (h : fits c b = true) (hab : a ≤ b) : fits c a = true := by
  cases c with
  | none => rfl
  | some c =>
    simp only [fits, decide_eq_true_eq] at h ⊢
    omega

/-- What fits `BUF` fits `OUTMEM` twice over (R45). -/
theorem fits_outmem {c : Config} {a : Nat} (h : fits c.bufCap a = true) : fits (windowCap c .outmem) (2 * a) = true := by
  cases hc : c.bufCap with
  | none => simp [windowCap, fits, hc]
  | some cap =>
    simp only [fits, hc, decide_eq_true_eq] at h
    simp only [windowCap, hc, Option.map_some, fits, decide_eq_true_eq]
    omega

/-- The length of a result that fits 32 bits is what `OLEN` holds. -/
theorem olenOf_toNat {n : Nat} (h : n < 2 ^ 32) : (olenOf n).toNat = n := by
  rw [olenOf, if_pos h, BitVec.toNat_ofNat]
  exact Nat.mod_eq_of_lt h

end Sys2Proof.Machine
end

