-- ==== Sys2Proof/Laws/PerInstr.lean ====
section
/-! SUPPORT. The family `Encoding`: every instruction is well formed, has exactly one of a `CMD` value and a `PH` code, and its
code is a well-formed one. -/

namespace Sys2Proof.Laws.Encoding

/-- What the family says of one instruction. -/
def Statement (i : Instr) : Prop :=
  i.wf = true ∧ (encode i).wf = true ∧ ((commandOp i).isSome = !(phaseCode i).isSome) ∧
    decode (encode i) = .ok i

theorem encrypt : Statement .encrypt := ⟨rfl, rfl, rfl, rfl⟩

theorem decrypt : Statement .decrypt := ⟨rfl, rfl, rfl, rfl⟩

theorem encBytes : Statement .encBytes := ⟨rfl, rfl, rfl, rfl⟩

theorem decBytes : Statement .decBytes := ⟨rfl, rfl, rfl, rfl⟩

theorem idle : Statement .idle := ⟨rfl, rfl, rfl, rfl⟩

theorem validate : Statement .validate := ⟨rfl, rfl, rfl, rfl⟩

theorem ksel : Statement .ksel := ⟨rfl, rfl, rfl, rfl⟩

theorem kpack : Statement .kpack := ⟨rfl, rfl, rfl, rfl⟩

theorem sinit : Statement .sinit := ⟨rfl, rfl, rfl, rfl⟩

theorem kmix0 : Statement .kmix0 := ⟨rfl, rfl, rfl, rfl⟩

theorem kmix : Statement .kmix := ⟨rfl, rfl, rfl, rfl⟩

theorem loadp : Statement .loadp := ⟨rfl, rfl, rfl, rfl⟩

theorem hexdec : Statement .hexdec := ⟨rfl, rfl, rfl, rfl⟩

theorem lenchk : Statement .lenchk := ⟨rfl, rfl, rfl, rfl⟩

theorem pad : Statement .pad := ⟨rfl, rfl, rfl, rfl⟩

theorem blkld : Statement .blkld := ⟨rfl, rfl, rfl, rfl⟩

theorem enc0 : Statement .enc0 := ⟨rfl, rfl, rfl, rfl⟩

theorem enca : Statement .enca := ⟨rfl, rfl, rfl, rfl⟩

theorem encb : Statement .encb := ⟨rfl, rfl, rfl, rfl⟩

theorem blkst : Statement .blkst := ⟨rfl, rfl, rfl, rfl⟩

theorem decb : Statement .decb := ⟨rfl, rfl, rfl, rfl⟩

theorem deca : Statement .deca := ⟨rfl, rfl, rfl, rfl⟩

theorem dec0 : Statement .dec0 := ⟨rfl, rfl, rfl, rfl⟩

theorem unpad : Statement .unpad := ⟨rfl, rfl, rfl, rfl⟩

theorem hexenc : Statement .hexenc := ⟨rfl, rfl, rfl, rfl⟩

theorem storep : Statement .storep := ⟨rfl, rfl, rfl, rfl⟩

theorem finish : Statement .finish := ⟨rfl, rfl, rfl, rfl⟩

theorem fail : Statement .fail := ⟨rfl, rfl, rfl, rfl⟩

end Sys2Proof.Laws.Encoding
end

