-- ==== Sys2Proof/Tests/Slice0.lean ====
section
/-! SUPPORT. Tests on fixed values, and for every statement with hypotheses a witness that meets them. Every expected value is
taken from `95_test_vectors.md` (section numbers below are that file's), from an example of the rule named, or is
worked out by hand from the rule. -/

namespace Sys2Proof.Tests

open Sys2Proof.Machine

/-! ### Helpers -/

/-- One field after an instruction, if it goes on. -/
def after {α : Type} (i : Instr) (s : State) (f : State → α) : Option α :=
  match exec i s with
  | .next t => some (f t)
  | .fault _ | .refused _ => none

/-- One field after a step, if it goes on. -/
def stepped {α : Type} (s : State) (f : State → α) : Option α :=
  match step s with
  | .next t => some (f t)
  | .fault _ | .refused _ => none

/-- A space that holds these bytes from 0 on. -/
def mem (xs : List Byte) : Memory := writeBytes [] 0 xs

/-- A call descriptor. -/
def descOf (op : Op) (w r : BitVec 32) (key payload : List Byte) : Descriptor where
  op := op
  wReq := w
  rReq := r
  bIn := BitVec.ofNat 32 key.length
  key := key
  pIn := BitVec.ofNat 32 payload.length
  payload := payload

/-- A state inside a call whose parameters have been latched. -/
def call (op : Op) (w : WordSize) (r : Nat) (key payload : List Byte) : State :=
  { State.reset with
    busy := true, desc := some (descOf op (BitVec.ofNat 32 w.bits) (BitVec.ofNat 32 r) key payload),
    w := some w, r := some r, blen := some key.length, key := mem key }

/-- The same with a loaded buffer. -/
def withBuf (s : State) (xs : List Byte) : State := { s with buf := mem xs, len := some xs.length }

/-- The configuration with a `BUF_CAP` of 16 bytes. -/
def smallConfig : Config := { defaultConfig with bufCap := some 16 }

/-- `KEXP(16, 1, 6B)` (section 2.4). -/
def sched16 : List Nat := [0x0DAB, 0xC781, 0xB49F, 0x5931]

/-- A block of the example of section 2.5 inside a call of `ENC_BYTES` or `DEC_BYTES`. -/
def blockState (op : Op) (a b : Nat) : State :=
  { withBuf (call op .w16 1 [0x6B#8] [0x41#8, 0x42#8, 0x43#8, 0x44#8]) [0x41#8, 0x42#8, 0x43#8, 0x44#8] with
    sch := sched16, blk := some 0, a := some a, b := some b, rc := some 1 }

/-- Ready for a call: the registers and windows HOST has written (program P2's parameters with a one-byte key). -/
def ready : State :=
  { State.reset with
    wIn := 32#32, rIn := 12#32, klenIn := 1#32, plenIn := 2#32, keymem := mem [0x6B#8],
    inmem := mem [0x41#8, 0x42#8],
    supply :=
      { wIn := some 32#32, rIn := some 12#32, klenIn := some 1#32, plenIn := some 2#32, key := mem [0x6B#8],
        payload := mem [0x41#8, 0x42#8] } }

/-- A call in the middle of a round. -/
def roundState : State :=
  { blockState .encBytes 0x4FEC 0x0BC4 with ph := 0x0D#5 }

/-! ### Decoding: words written out from the tables of R81 and R83 -/

theorem test_decode_commands :
    decode ⟨.command, 0b00000001#8⟩ = .ok .encrypt ∧ decode ⟨.command, 0b00000010#8⟩ = .ok .decrypt ∧
      decode ⟨.command, 0b00000011#8⟩ = .ok .encBytes ∧ decode ⟨.command, 0b00000100#8⟩ = .ok .decBytes := by
  decide

theorem test_decode_phases_low :
    [0b00000, 0b00001, 0b00010, 0b00011, 0b00100, 0b00101, 0b00110, 0b00111, 0b01000, 0b01001, 0b01010,
        0b01011].map (decodeTableWord 5) =
      [some .idle, some .validate, some .ksel, some .kpack, some .sinit, some .kmix0, some .kmix,
        some .loadp, some .hexdec, some .lenchk, some .pad, some .blkld] := by decide

theorem test_decode_phases_high :
    [0b01100, 0b01101, 0b01110, 0b01111, 0b10000, 0b10001, 0b10010, 0b10011, 0b10100, 0b10101, 0b10110,
        0b10111].map (decodeTableWord 5) =
      [some .enc0, some .enca, some .encb, some .blkst, some .decb, some .deca, some .dec0,
        some .unpad, some .hexenc, some .storep, some .finish, some .fail] := by decide

/-- Log 8: a table word of a whole byte. -/
theorem test_decode_table_byte :
    [0x01, 0x04, 0x05, 0x17, 0x18, 0x81].map (decodeTableWord 8) =
      [some .encrypt, some .decBytes, some .kmix0, some .fail, none, none] := by decide

/-- R90: illegal `CMD` values and reserved `PH` codes, by name. -/
theorem test_decode_rejects :
    decode ⟨.command, 0x00#8⟩ = .error (.illegalCommand 0x00#8) ∧
      decode ⟨.command, 0x05#8⟩ = .error (.illegalCommand 0x05#8) ∧
      decode ⟨.command, 0x10#8⟩ = .error (.illegalCommand 0x10#8) ∧
      decode ⟨.command, 0x81#8⟩ = .error (.illegalCommand 0x81#8) ∧
      decode ⟨.phase, 0x18#8⟩ = .error (.reservedPhase 0x18#5) ∧
      decode ⟨.phase, 0x1F#8⟩ = .error (.reservedPhase 0x1F#5) ∧
      decode ⟨.phase, 0x20#8⟩ = .error (.notFiveBits 0x20#8) := by decide

theorem test_fetch_command : step (State.reset.withFetchWord 8 0x03) = exec .encBytes { State.reset with cmd := some 3#8, fresh := 1 } := rfl

theorem test_fetch_phase : step (State.reset.withFetchWord 5 0x05) = exec .kmix0 { State.reset with ph := 5#5 } := rfl

/-! ### Well-formedness -/

theorem smoke_wf_code : (Code.mk .phase 0x20#8).wf = false ∧ (Code.mk .phase 0x1F#8).wf = true := by decide

theorem smoke_wf_magic_even : Config.wf { defaultConfig with magic := { defaultMagic with m16 := ⟨0xB7E0, 0x9E37⟩ } } = false := by
  decide

theorem smoke_wf_magic_wide : Config.wf { defaultConfig with magic := { defaultMagic with m32 := ⟨0xB7E15163, 0x19E3779B9⟩ } } = false := by
  decide

theorem smoke_wf_buf_cap :
    Config.wf { defaultConfig with bufCap := some 0 } = false ∧ Config.wf { defaultConfig with bufCap := some 17 } = false ∧
      Config.wf smallConfig = true ∧ Config.wf defaultConfig = true := by decide

theorem smoke_wf_move :
    (HostMove.writeKeymem 255 0#8).wf smallConfig = false ∧ (HostMove.writeKeymem 254 0#8).wf smallConfig = true ∧
      (HostMove.writeInmem 32 0#8).wf smallConfig = false ∧ (HostMove.writeInmem 31 0#8).wf smallConfig = true ∧
      (HostMove.readOutmem 32).wf smallConfig = false ∧ (HostMove.readOutmem 31).wf smallConfig = true := by decide

/-- No instruction is ill formed (R83, R81): none has an operand field. -/
theorem smoke_wf_instr : Instr.encrypt.wf = true ∧ Instr.fail.wf = true := by decide

/-! ### Arithmetic (section 2.1) -/

theorem test_add_sub :
    addW .w16 0xFFFF 0x0001 = 0 ∧ addW .w16 0xB7E1 0x9E37 = 0x5618 ∧ subW .w16 0x0000 0x0001 = 0xFFFF ∧
      subW .w16 0x1234 0x1235 = 0xFFFF ∧ addW .w32 0xFFFFFFFF 0xFFFFFFFF = 0xFFFFFFFE ∧
      subW .w32 0 0xFFFFFFFF = 1 ∧ addW .w64 0xFFFFFFFFFFFFFFFF 2 = 1 := by decide

theorem test_rotl :
    rotl .w16 0x8001 1 = 0x0003 ∧ rotl .w16 0x8001 0 = 0x8001 ∧ rotl .w16 0x8001 15 = 0xC000 ∧
      rotl .w16 0x1234 4 = 0x2341 ∧ rotl .w32 0x80000001 31 = 0xC0000000 ∧
      rotl .w32 0x12345678 8 = 0x34567812 ∧ rotl .w64 0x8000000000000000 63 = 0x4000000000000000 := by decide

theorem test_rotr :
    rotr .w16 0x8001 1 = 0xC000 ∧ rotr .w16 0x8001 0 = 0x8001 ∧ rotr .w16 0x8001 15 = 0x0003 ∧
      rotr .w16 0xB7E1 3 = 0x36FC ∧ rotr .w32 0x12345678 8 = 0x78123456 ∧
      rotr .w64 0x0123456789ABCDEF 4 = 0xF0123456789ABCDE := by decide

theorem test_amount :
    amount .w16 0xBF0D = 13 ∧ amount .w32 0xF0CCA32A = 10 ∧ amount .w64 0x96398E74CC123755 = 21 := by decide

theorem test_bytes :
    leWord [0x41#8, 0x42#8] = 0x4241 ∧ leWord [0x48#8, 0x65#8, 0x6C#8, 0x6C#8] = 0x6C6C6548 ∧
      leBytes 2 0xBAA6 = [0xA6#8, 0xBA#8] ∧ leBytes 4 0xB5E97378 = [0x78#8, 0x73#8, 0xE9#8, 0xB5#8] := by decide

/-- Section 2.2: the sizes of R8. -/
theorem test_sizes :
    (scheduleLength 12, keyWords .w32 7, mixCount .w32 12 7, blockBytes .w32) = (26, 2, 78, 8) ∧
      (scheduleLength 255, keyWords .w64 255, mixCount .w64 255 255, blockBytes .w64) = (512, 32, 1536, 16) ∧
      (scheduleLength 0, keyWords .w16 255, mixCount .w16 0 255) = (2, 128, 384) ∧
      (keyWords .w32 0, mixCount .w16 0 0) = (1, 6) := by decide

/-- R82. -/
theorem test_wsel : (WordSize.w16.sel, WordSize.w32.sel, WordSize.w64.sel) = (0b00#2, 0b01#2, 0b10#2) := by decide

/-! ### Commands -/

/-- R106: `ENCRYPT` starts a call and latches the descriptor. -/
theorem test_encrypt :
    after .encrypt ready (fun t => (t.ph, statusReg t, t.desc)) =
      some (0x01#5, 0x01#8, some (descOf .encrypt 32#32 12#32 [0x6B#8] [0x41#8, 0x42#8])) := by decide

theorem test_decrypt : after .decrypt ready (fun t => (t.ph, t.desc.map (·.op))) = some (0x01#5, some .decrypt) := by decide

/-- R106: the flags and the result of the last call are cleared. -/
theorem test_encBytes :
    after .encBytes { ready with done := true, err := true, errcode := 3#8, olen := 7#32 }
        (fun t => (statusReg t, t.errcode, t.olen, t.desc.map (·.op))) =
      some (0x01#8, 0#8, 0#32, some .encBytes) := by decide

/-- R248: ignored while `BUSY = 1`. -/
theorem test_decBytes_busy :
    stepped { call .encrypt .w16 0 [] [] with ph := 0x02#5, host := [.writeCmd 4#8] } (fun t => (t.ph, t.desc.map (·.op))) =
      some (0x02#5, some .encrypt) := by decide

theorem test_decBytes : after .decBytes ready (fun t => (t.ph, t.desc.map (·.op))) = some (0x01#5, some .decBytes) := by decide

/-- R41: `IDLE` without a `CMD` write stays. -/
theorem test_idle : after .idle ready (fun t => (t.ph, t.busy, t.wIn)) = some (0x00#5, false, 32#32) := by decide

/-- R90: an illegal `CMD` value goes to `FAIL` with `E_ARG`. -/
theorem test_idle_illegal :
    stepped { ready with host := [.writeCmd 0x81#8] } (fun t => (t.ph, t.kind, t.desc)) =
      some (0x17#5, some .arg, none) := by decide

/-! ### Validation (section 2.2) -/

/-- A descriptor with a key of `b` bytes, of which at most 255 are latched. -/
def validateDesc (w r : BitVec 32) (b : Nat) : Descriptor :=
  { descOf .encrypt w r (List.replicate (min b 255) 0x6B#8) [] with bIn := BitVec.ofNat 32 b }

/-- The state in which `VALIDATE` runs. -/
def validateState (w r : BitVec 32) (b : Nat) : State :=
  { State.reset with ph := 0x01#5, busy := true, desc := some (validateDesc w r b) }

theorem test_validate :
    after .validate (validateState 32#32 12#32 7) (fun t => (t.w, t.r, t.blen, t.key.length, t.ph)) =
      some (some .w32, some 12, some 7, 7, 0x07#5) := by decide

theorem test_validate_fails :
    [validateState 24#32 300#32 256, validateState 0xFFFFFFE0#32 12#32 7, validateState 65552#32 12#32 7,
        validateState 32#32 300#32 256, validateState 32#32 0xFFFFFFFF#32 7,
        validateState 32#32 12#32 256].map (fun s => after .validate s (·.kind)) =
      [some (some .wordSize), some (some .wordSize), some (some .wordSize), some (some .rounds),
        some (some .rounds), some (some .keyLen)] := by decide

theorem test_ksel :
    after .ksel (call .encrypt .w32 12 [] []) (fun t => (t.p, t.q, t.ph)) =
      some (some 0xB7E15163, some 0x9E3779B9, 0x03#5) := by decide

theorem test_ksel_64 :
    after .ksel (call .encrypt .w64 12 [] []) (fun t => (t.p, t.q)) =
      some (some 0xB7E151628AED2A6B, some 0x9E3779B97F4A7C15) := by decide

/-! ### Key schedule (sections 2.3, 2.4) -/

/-- The key `"testkey"`. -/
def testkey : List Byte := [0x74#8, 0x65#8, 0x73#8, 0x74#8, 0x6B#8, 0x65#8, 0x79#8]

theorem test_kpack :
    after .kpack (call .encrypt .w32 12 testkey []) (fun t => (t.l, t.ph)) =
      some ([0x74736574, 0x0079656B], 0x04#5) := by decide

theorem test_kpack_16 :
    after .kpack (call .encrypt .w16 12 testkey []) (·.l) = some [0x6574, 0x7473, 0x656B, 0x0079] ∧
      after .kpack (call .encrypt .w16 12 [] []) (·.l) = some [0] := by decide

theorem test_sinit :
    after .sinit { call .encrypt .w16 1 [] [] with p := some 0xB7E1, q := some 0x9E37 } (fun t => (t.sch, t.ph)) =
      some ([0xB7E1, 0x5618, 0xF44F, 0x9286], 0x05#5) := by decide

theorem test_sinit_no_rounds :
    after .sinit { call .encrypt .w64 0 [] [] with p := some 0xB7E151628AED2A6B, q := some 0x9E3779B97F4A7C15 } (·.sch) =
      some [0xB7E151628AED2A6B, 0x5618CB1C0A37A680] := by decide

theorem test_kmix0 :
    after .kmix0 (call .encrypt .w16 0 [] []) (fun t => ([t.ka, t.kb, t.i, t.j, t.n], t.ph)) =
      some ([some 0, some 0, some 0, some 0, some 0], 0x06#5) := by decide

/-- Section 2.4, `w = 16`, `r = 0`, empty key, iteration `N = 2`: both sums carry. -/
def mixState2 : State :=
  { withBuf (call .encBytes .w16 0 [] []) [] with
    ph := 0x06#5, sch := [0xBF0D, 0x6836], l := [0xFC6B], ka := some 0x6836, kb := some 0xFC6B, i := some 0,
    j := some 0, n := some 2 }

theorem test_kmix :
    after .kmix mixState2 (fun t => (t.sch, t.l, [t.ka, t.kb, t.i, t.j, t.n], t.ph)) =
      some ([0x1D71, 0x6836], [0x7164], [some 0x1D71, some 0x7164, some 1, some 0, some 3], 0x06#5) := by decide

/-- The same call, iteration `N = 5`, the last: the schedule is final, and `PAD` is next (R100). -/
def mixState5 : State :=
  { mixState2 with sch := [0x7865, 0xB85F], l := [0x55BA], ka := some 0x7865, kb := some 0x55BA, i := some 1, n := some 5 }

theorem test_kmix_last :
    after .kmix mixState5 (fun t => (t.sch, t.l, t.i, t.n, t.ph)) =
      some ([0x7865, 0x33F4], [0x37DA], some 0, some 6, 0x0A#5) := by decide

/-! ### Loading -/

theorem test_loadp :
    after .loadp (call .encrypt .w32 12 [] [0x48#8, 0x65#8, 0x6C#8, 0x6C#8, 0x6F#8]) (fun t => (t.buf, t.len, t.ph)) =
      some (mem [0x48#8, 0x65#8, 0x6C#8, 0x6C#8, 0x6F#8], some 5, 0x02#5) := by decide

/-- R102 with `BUF_CAP = 16`, `bs = 8`: 9 bytes fit `ENC_BYTES`, 10 do not; `DEC_BYTES` takes 16. -/
theorem test_loadp_limit :
    after .loadp { call .encBytes .w32 12 [] (List.replicate 9 0#8) with cfg := smallConfig } (·.kind) = some none ∧
      after .loadp { call .encBytes .w32 12 [] (List.replicate 10 0#8) with cfg := smallConfig } (·.kind) = some (some .arg) ∧
      after .loadp { call .decBytes .w32 12 [] (List.replicate 16 0#8) with cfg := smallConfig } (fun t => (t.kind, t.ph)) =
        some (none, 0x09#5) := by decide

/-- Section 2.7: mixed case. -/
theorem test_hexdec :
    after .hexdec (call .decrypt .w16 0 [] [0x37#8, 0x38#8, 0x45#8, 0x39#8, 0x62#8, 0x35#8]) (fun t => (t.buf, t.len, t.ph)) =
      some (mem [0x78#8, 0xE9#8, 0xB5#8], some 3, 0x09#5) := by decide

/-- Section 2.7: `ABC`, `ZZ`, `1G`; and lower case when `HEX_IN_CASE = upper`. -/
theorem test_hexdec_fails :
    [call .decrypt .w16 0 [] [0x41#8, 0x42#8, 0x43#8], call .decrypt .w16 0 [] [0x5A#8, 0x5A#8],
        call .decrypt .w16 0 [] [0x31#8, 0x47#8],
        { call .decrypt .w16 0 [] [0x31#8, 0x61#8] with cfg := { defaultConfig with hexInCase := .upper } }].map
        (fun s => after .hexdec s (·.kind)) =
      [some (some .hexFormat), some (some .hexFormat), some (some .hexFormat), some (some .hexFormat)] := by decide

/-- R103: `w = 32`, `LEN = 8` passes, `LEN = 7` does not. -/
theorem test_lenchk :
    after .lenchk { call .decrypt .w32 0 [] [] with len := some 8 } (fun t => (t.ph, t.kind)) = some (0x02#5, none) ∧
      after .lenchk { call .decrypt .w32 0 [] [] with len := some 7 } (fun t => (t.ph, t.kind)) =
        some (0x17#5, some .arg) := by decide

/-! ### Blocks (section 2.5) -/

theorem test_blkld :
    after .blkld (blockState .encBytes 0 0) (fun t => (t.a, t.b, t.ph)) =
      some (some 0x4241, some 0x4443, 0x0C#5) := by decide

theorem test_blkld_decrypt :
    after .blkld { blockState .decBytes 0 0 with buf := mem [0x23#8, 0xF7#8, 0x70#8, 0x40#8], rc := none }
        (fun t => (t.a, t.b, t.rc, t.ph)) =
      some (some 0xF723, some 0x4070, some 1, 0x10#5) := by decide

theorem test_enc0 :
    after .enc0 (blockState .encBytes 0x4241 0x4443) (fun t => (t.a, t.b, t.rc, t.ph)) =
      some (some 0x4FEC, some 0x0BC4, some 1, 0x0D#5) := by decide

theorem test_enca :
    after .enca (blockState .encBytes 0x4FEC 0x0BC4) (fun t => (t.a, t.b, t.ph)) =
      some (some 0xF723, some 0x0BC4, 0x0E#5) := by decide

/-- `w = 32`, round 1 of program P2. -/
theorem test_enca_32 :
    after .enca { call .encrypt .w32 12 [] [] with
        a := some 0x19791A45, b := some 0xF0CCA32A, rc := some 1, sch := [0, 0, 0xD431ECCE, 0x053103FE] } (·.a) =
      some (some 0xAB17AC74) := by decide

theorem test_encb :
    after .encb (blockState .encBytes 0xF723 0x0BC4) (fun t => (t.a, t.b, t.rc, t.ph)) =
      some (some 0xF723, some 0x4070, some 2, 0x0F#5) := by decide

theorem test_encb_32 :
    after .encb { call .encrypt .w32 12 [] [] with
        a := some 0xAB17AC74, b := some 0xF0CCA32A, rc := some 1, sch := [0, 0, 0xD431ECCE, 0x053103FE] }
        (fun t => (t.b, t.ph)) =
      some (some 0xFB16C1AE, 0x0D#5) := by decide

theorem test_blkst :
    after .blkst (blockState .encBytes 0xF723 0x4070) (fun t => (t.buf, t.len, t.blk, t.ph)) =
      some (mem [0x23#8, 0xF7#8, 0x70#8, 0x40#8], some 4, some 1, 0x15#5) := by decide

theorem test_decb :
    after .decb (blockState .decBytes 0xF723 0x4070) (fun t => (t.a, t.b, t.ph)) =
      some (some 0xF723, some 0x0BC4, 0x11#5) := by decide

theorem test_deca :
    after .deca (blockState .decBytes 0xF723 0x0BC4) (fun t => (t.a, t.b, t.rc, t.ph)) =
      some (some 0x4FEC, some 0x0BC4, some 0, 0x12#5) := by decide

theorem test_dec0 :
    after .dec0 (blockState .decBytes 0x4FEC 0x0BC4) (fun t => (t.a, t.b, t.ph)) =
      some (some 0x4241, some 0x4443, 0x0F#5) := by decide

/-! ### Padding (section 2.6) -/

/-- A buffer alone. -/
def bufState (op : Op) (w : WordSize) (xs : List Byte) : State := withBuf (call op w 0 [] []) xs

theorem test_pad :
    after .pad (bufState .encBytes .w16 [0x41#8]) (fun t => (t.buf, t.len, t.blk, t.ph)) =
      some (mem [0x41#8, 0x03#8, 0x03#8, 0x03#8], some 4, some 0, 0x0B#5) := by decide

/-- Nothing is appended to an aligned buffer, and the empty one has no block. -/
theorem test_pad_aligned :
    after .pad (bufState .encBytes .w16 [0x41#8, 0x42#8, 0x43#8, 0x44#8]) (·.len) = some (some 4) ∧
      after .pad (bufState .encrypt .w16 []) (fun t => (t.len, t.ph)) = some (some 0, 0x14#5) := by decide

theorem test_unpad :
    [[0x41#8, 0x42#8, 0x02#8, 0x02#8], [0x41#8, 0x42#8, 0x43#8, 0x04#8], [0x41#8, 0x42#8, 0x03#8, 0x02#8]].map
        (fun xs => after .unpad (bufState .decBytes .w16 xs) (·.len)) =
      [some (some 2), some (some 0), some (some 2)] := by decide

theorem test_unpad_lenient :
    [[0x41#8, 0x42#8, 0x43#8, 0x05#8], [0x41#8, 0x42#8, 0x43#8, 0x00#8], [0x41#8, 0x42#8, 0x43#8, 0xFF#8], []].map
        (fun xs => after .unpad (bufState .decBytes .w16 xs) (fun t => (t.len, t.ph))) =
      [some (some 4, 0x15#5), some (some 4, 0x15#5), some (some 4, 0x15#5), some (some 0, 0x15#5)] := by decide

/-! ### Results (section 2.7) -/

theorem test_hexenc :
    after .hexenc (bufState .encrypt .w16 [0xA6#8, 0xBA#8, 0xF6#8, 0x35#8]) (fun t => (t.outmem, t.olen, t.ph)) =
      some (mem [0x41#8, 0x36#8, 0x42#8, 0x41#8, 0x46#8, 0x36#8, 0x33#8, 0x35#8], 8#32, 0x16#5) := by decide

theorem test_hexenc_digits :
    hexEncode [0x00#8, 0x0A#8, 0xFF#8, 0x10#8] = [0x30#8, 0x30#8, 0x30#8, 0x41#8, 0x46#8, 0x46#8, 0x31#8, 0x30#8] := by
  decide

theorem test_storep :
    after .storep (bufState .decBytes .w16 [0x41#8, 0x42#8]) (fun t => (t.outmem, t.olen, t.ph)) =
      some (mem [0x41#8, 0x42#8], 2#32, 0x16#5) := by decide

theorem test_finish :
    after .finish { blockState .encBytes 1 2 with olen := 4#32 } (fun t => ([statusReg t, t.errcode], t.olen, t.ph, t.a)) =
      some ([0x02#8, 0#8], 4#32, 0x00#5, none) := by decide

theorem test_fail :
    [FailKind.wordSize, .rounds, .keyLen, .hexFormat, .arg].map
        (fun e => after .fail { call .encrypt .w16 0 [] [] with kind := some e, olen := 9#32 }
          (fun t => ([statusReg t, t.errcode], t.olen, t.ph))) =
      [1#8, 2#8, 3#8, 4#8, 5#8].map (fun c => some ([0x04#8, c], 0#32, 0x00#5)) := by decide

/-! ### HOST -/

theorem test_host_window :
    stepped { State.reset with host := [.writeKeymem 254 0x7F#8] } (·.keymem) = some [(254, 0x7F#8)] ∧
      stepped { State.reset with host := [.writeKeymem 255 0x7F#8] } (·.keymem) = none := by decide

theorem test_host_status :
    stepped { call .encrypt .w16 0 [] [] with host := [.readReg .status] } (·.rdata) = some 1#32 := by decide

/-- R44: an input register reads back what was written, also while `BUSY = 1`. -/
theorem test_host_input_busy :
    stepped { call .encrypt .w16 0 [] [] with wIn := 16#32, host := [.readReg .wIn] } (·.rdata) = some 16#32 := by decide

/-- R68: a read with a free answer, made again. -/
theorem test_host_read_again :
    (match step { roundState with host := [.readReg .olen, .readReg .status, .readReg .olen] } with
    | .next t =>
      match step t with
      | .next t' => stepped t' (·.rdata) = some t.rdata
      | .fault _ | .refused _ => False
    | .fault _ | .refused _ => False) := rfl

theorem test_host_result :
    stepped { State.reset with done := true, olen := 1#32, outmem := mem [0x41#8], host := [.readOutmem 0] } (·.rdata) =
      some 0x41#32 := by decide

theorem test_host_reset :
    stepped { blockState .encBytes 1 2 with ph := 0x0D#5, olen := 9#32, host := [.reset] }
        (fun t => (t.ph, statusReg t, t.olen, t.a, t.epoch)) =
      some (0x00#5, 0#8, 0#32, none, 1) := by decide

/-- R243: what HOST writes is noted, and a call uses it up. -/
theorem test_host_supply :
    stepped { State.reset with host := [.writeReg .rIn 12#32] } (·.supply.rIn) = some (some 12#32) ∧
      stepped { State.reset with host := [.writeInmem 3 0x41#8] } (·.supply.payload) = some [(3, 0x41#8)] ∧
      stepped { ready with host := [.writeCmd 1#8] } (·.supply) = some .nothing := by decide

/-- R10: `REG_BASE` places register 0 and the windows; an engine on no bus has no addresses. -/
theorem test_reg_base :
    (let c := { defaultConfig with regBase := some ⟨0x4000, 0x4100, 0x5000, 0x6000⟩ };
      registerZeroAddress c = some 0x4000 ∧ windowAddress c .keymem 254 = some 0x41FE ∧
        windowAddress c .inmem 0 = some 0x5000 ∧ windowAddress c .outmem 1 = some 0x6001) ∧
      registerZeroAddress defaultConfig = none := by decide

/-! ### Whole results (section 2.5, program P1) -/

theorem test_keySchedule : keySchedule defaultConfig .w16 0 [] = [0x7865, 0x33F4] ∧ keySchedule defaultConfig .w16 1 [0x6B#8] = sched16 := by
  decide

theorem test_encBytesOf :
    encBytesOf defaultConfig .w16 0 [] [0x41#8, 0x42#8] = [0xA6#8, 0xBA#8, 0xF6#8, 0x35#8] ∧
      decBytesOf defaultConfig .w16 0 [] [0xA6#8, 0xBA#8, 0xF6#8, 0x35#8] = [0x41#8, 0x42#8] := by decide

/-! ### Witnesses: states and operands that meet the hypotheses of the statements, clause by clause -/

theorem witness_ResetInputAbandonsTheCall :
    ({ blockState .encBytes 1 2 with ph := 0x0D#5, host := [.reset, .run] } : State).host = .reset :: [.run] := rfl

theorem witness_DecodeEncodeRoundTrip :
    Instr.kmix.wf = true ∧ decode ⟨.phase, 0x06#8⟩ = .ok .kmix ∧ decode ⟨.command, 0x04#8⟩ = .ok .decBytes := by decide

theorem witness_IllegalAndReservedCodes :
    State.reset.host = [] ∧ 0x18 ≤ (0x18#5).toNat ∧ 0x18 ≤ (0x1F#5).toNat ∧
      (∃ i, decodeCommand 1#8 = .ok i) ∧ (∃ i, decodeCommand 4#8 = .ok i) ∧ ∃ i, decodePhase 0x17#5 = .ok i :=
  ⟨rfl, by decide, by decide, ⟨.encrypt, rfl⟩, ⟨.decBytes, rfl⟩, ⟨.fail, rfl⟩⟩

theorem witness_StepRunsTheDecodedInstruction :
    decodePhase mixState2.ph = .ok .kmix ∧ mixState2.host = [] ∧
      ({ mixState2 with host := [.run] } : State).host = .run :: [] ∧
      ({ ready with host := [.writeCmd 3#8] } : State).host = .writeCmd 3#8 :: [] ∧
      decodeCommand 3#8 = .ok .encBytes := by decide

theorem witness_CommandStartsTheCall : State.reset.cmd = none ∧ ready.busy = false := by decide

theorem witness_IllegalCommandEndsWithArg :
    ready.busy = false ∧ ((0x00#8).toNat = 0 ∨ 4 < (0x00#8).toNat) ∧ ((0x05#8).toNat = 0 ∨ 4 < (0x05#8).toNat) ∧
      ((0xFF#8).toNat = 0 ∨ 4 < (0xFF#8).toNat) ∧
      ({ ready with host := [.writeCmd 0x05#8] } : State).host = [.writeCmd 0x05#8] := by decide

theorem witness_CommandWhileBusyIsIgnored :
    mixState2.busy = true ∧ ({ mixState2 with host := [.writeCmd 1#8] } : State).host = .writeCmd 1#8 :: [] := by decide

theorem witness_LatchTakesTheDescriptor :
    0 < (latch .encrypt ready).key.length ∧ Memory.read ready.keymem 0 = some 0x6B#8 ∧
      1 < (latch .encrypt ready).payload.length ∧ Memory.read ready.inmem 1 = some 0x42#8 ∧
      254 < (latch .encrypt { ready with klenIn := 300#32, keymem := [(254, 1#8)] }).key.length ∧
      Memory.read [(254, 1#8)] 254 = some 1#8 := by decide +kernel

theorem witness_ValidateChecksAndLatches :
    (∀ x ∈ [validateDesc 24#32 12#32 7, validateDesc 0#32 12#32 7, validateDesc 65552#32 12#32 7],
      x.key.length = min x.bIn.toNat 255 ∧ ¬(x.wReq.toInt = 16 ∨ x.wReq.toInt = 32 ∨ x.wReq.toInt = 64)) ∧
    (∀ x ∈ [validateDesc 32#32 256#32 7, validateDesc 32#32 0xFFFFFFFF#32 7],
      x.key.length = min x.bIn.toNat 255 ∧ x.wReq.toInt = WordSize.w32.bits ∧
        (x.rReq.toInt < 0 ∨ 255 < x.rReq.toInt)) ∧
    (∀ x ∈ [validateDesc 16#32 0#32 256, validateDesc 16#32 255#32 300],
      x.key.length = min x.bIn.toNat 255 ∧ x.wReq.toInt = WordSize.w16.bits ∧ 0 ≤ x.rReq.toInt ∧
        x.rReq.toInt ≤ 255 ∧ 255 < x.bIn.toNat) ∧
    ∀ x ∈ [validateDesc 64#32 0#32 0, validateDesc 64#32 255#32 255],
      x.key.length = min x.bIn.toNat 255 ∧ x.wReq.toInt = WordSize.w64.bits ∧ 0 ≤ x.rReq.toInt ∧
        x.rReq.toInt ≤ 255 ∧ x.bIn.toNat ≤ 255 := by decide +kernel

theorem witness_KselReadsMagic :
    (call .encrypt .w16 0 [] []).w = some .w16 ∧ (call .encrypt .w32 0 [] []).w = some .w32 ∧
      (call .encrypt .w64 0 [] []).w = some .w64 := by decide

theorem witness_KpackPacksLittleEndian :
    (call .encrypt .w32 12 testkey []).w = some .w32 ∧ (call .encrypt .w32 12 testkey []).blen = some 7 ∧
      filled (call .encrypt .w32 12 testkey []).key 7 ∧
      (call .encrypt .w16 0 [] []).blen = some 0 ∧ filled (call .encrypt .w16 0 [] []).key 0 := by
  refine ⟨rfl, rfl, ?_, rfl, ?_⟩
  · unfold filled; decide
  · unfold filled; decide

theorem witness_SinitClosedForm :
    ∃ s : State, s.w = some .w16 ∧ s.r = some 255 ∧ s.p = some 0xFFFF ∧ s.q = some 0x9E37 ∧ 0xFFFF < 2 ^ WordSize.w16.bits :=
  ⟨{ call .encrypt .w16 255 [] [] with p := some 0xFFFF, q := some 0x9E37 }, rfl, rfl, rfl, rfl, by decide⟩

/-- Not the last iteration: `N = 2` of `m = 6`, where both operands of the rotator are wide (section 2.4). -/
theorem witness_KmixIteration_more :
    mixState2.cfg.rotWide = .reduce ∧ 2 ^ WordSize.w16.bits ≤ (0xBF0D + 0x6836) % 2 ^ WordSize.w16.bits + 0xFC6B ∧ mixState2.desc.map (·.op) = some .encBytes ∧ mixState2.w = some .w16 ∧
      mixState2.r = some 0 ∧ mixState2.blen = some 0 ∧ mixState2.len = some 0 ∧
      [mixState2.ka, mixState2.kb, mixState2.i, mixState2.j, mixState2.n] =
        [some 0x6836, some 0xFC6B, some 0, some 0, some 2] ∧
      mixState2.sch[0]? = some 0xBF0D ∧ mixState2.l[0]? = some 0xFC6B ∧ 2 + 1 < 3 * max (2 * (0 + 1)) 1 := by decide

/-- The other setting of `ROT_WIDE` in iteration `N = 0` of a call with an empty key, where both operands are words: `S[0]` is
`P` and `L[0]` is 0. -/
theorem witness_KmixIteration_other :
    ∃ s : State, s.cfg.rotWide = .other ∧ s.desc.map (·.op) = some .encBytes ∧ s.w = some .w16 ∧ s.r = some 0 ∧
      s.blen = some 0 ∧ s.len = some 0 ∧ [s.ka, s.kb, s.i, s.j, s.n] = [some 0, some 0, some 0, some 0, some 0] ∧
      s.sch[0]? = some 0xB7E1 ∧ s.l[0]? = some 0 ∧ (0xB7E1 + 0) % 2 ^ WordSize.w16.bits + 0 < 2 ^ WordSize.w16.bits ∧
      0 + rotl .w16 0xB7E1 3 + 0 < 2 ^ WordSize.w16.bits :=
  ⟨{ mixState2 with
      cfg := { defaultConfig with rotWide := .other }, sch := [0xB7E1, 0x5618], l := [0], ka := some 0, kb := some 0,
      n := some 0 }, by decide⟩

/-- The last iteration, `N = 5`, on the encrypt side. -/
theorem witness_KmixIteration_last :
    mixState5.desc.map (·.op) = some .encBytes ∧ mixState5.sch[1]? = some 0xB85F ∧ mixState5.l[0]? = some 0x55BA ∧
      [mixState5.ka, mixState5.kb, mixState5.i, mixState5.j, mixState5.n] =
        [some 0x7865, some 0x55BA, some 1, some 0, some 5] ∧ ¬5 + 1 < 3 * max (2 * (0 + 1)) 1 := by decide

/-- The last iteration on the decrypt side, with no block and with one. -/
theorem witness_KmixIteration_last_decrypt :
    ∃ s s' : State, s.desc.map (·.op) = some .decBytes ∧ s.len = some 0 ∧ s.n = some 5 ∧
      s'.desc.map (·.op) = some .decrypt ∧ s'.len = some 4 ∧ s'.n = some 5 ∧ 4 / (2 * WordSize.w16.bits / 8) ≠ 0 :=
  ⟨{ mixState5 with desc := some (descOf .decBytes 16#32 0#32 [] []) },
    { withBuf mixState5 [1#8, 2#8, 3#8, 4#8] with desc := some (descOf .decrypt 16#32 0#32 [] []) },
    rfl, rfl, rfl, rfl, rfl, rfl, by decide⟩

theorem witness_KeyScheduleShape : defaultConfig.wf = true ∧ Config.wf { defaultConfig with rotWide := .other } = true := by
  decide

/-- R145's examples. -/
theorem witness_TrailingZerosShareTheSchedule :
    keyWords .w32 ([1#8, 2#8, 3#8, 4#8, 5#8].length + 1) = keyWords .w32 [1#8, 2#8, 3#8, 4#8, 5#8].length ∧
      keyWords .w32 (([] : List Byte).length + 1) = keyWords .w32 ([] : List Byte).length := by decide

theorem witness_LoadpLoadsOrRefuses :
    (∀ x ∈ [(Op.encBytes, 9), (.encBytes, 10), (.encrypt, 0), (.decBytes, 16), (.decBytes, 17)],
      let s := { call x.1 .w32 12 [] (List.replicate x.2 0#8) with cfg := smallConfig }
      s.desc = some (descOf x.1 32#32 12#32 [] (List.replicate x.2 0#8)) ∧ s.w = some .w32 ∧
        (descOf x.1 32#32 12#32 [] (List.replicate x.2 0#8)).payload.length =
          payloadFit s.cfg (descOf x.1 32#32 12#32 [] (List.replicate x.2 0#8)).pIn.toNat) ∧
      9 ≤ 16 - (2 * WordSize.w32.bits / 8 - 1) ∧ 10 > 16 - (2 * WordSize.w32.bits / 8 - 1) ∧ 17 > 16 := by decide

/-- An odd length; a non-digit; an aligned string of digits that fits; one of 34 characters, of which `INMEM` holds 32. -/
theorem witness_HexdecDecodesOrFails :
    (∀ x ∈ [[0x41#8, 0x42#8, 0x43#8], [0x5A#8, 0x5A#8], [0x41#8, 0x36#8], List.replicate 32 0x30#8],
      (descOf .decrypt 16#32 0#32 [] x).payload.length = payloadFit smallConfig (descOf .decrypt 16#32 0#32 [] x).pIn.toNat) ∧
      hexVal .both 0x5A#8 = none ∧ allDigits .both (List.replicate 32 0x30#8) = true ∧
      (List.replicate 32 0x30#8 : List Byte).length = payloadFit smallConfig 34 ∧ 34 / 2 > 16 ∧ ¬32 / 2 > 16 := by decide

theorem witness_LenchkChecksAlignment :
    ∃ s s' : State, s.w = some .w32 ∧ s.len = some 7 ∧ 7 % (2 * WordSize.w32.bits / 8) ≠ 0 ∧ s'.w = some .w32 ∧
      s'.len = some 8 ∧ 8 % (2 * WordSize.w32.bits / 8) = 0 :=
  ⟨{ call .decrypt .w32 0 [] [] with len := some 7 }, { call .decrypt .w32 0 [] [] with len := some 8 },
    rfl, rfl, by decide, rfl, rfl, by decide⟩

/-- Both directions, the last block of the buffer, `R = 1`. -/
theorem witness_BlkldLoadsTheBlock :
    ∀ op ∈ [Op.encrypt, .encBytes, .decrypt, .decBytes],
      let s := blockState op 0 0
      s.desc.map (·.op) = some op ∧ s.w = some .w16 ∧ s.r = some 1 ∧ s.len = some 4 ∧ s.blk = some 0 ∧
        0 * (2 * WordSize.w16.bits / 8) + 2 * WordSize.w16.bits / 8 ≤ 4 ∧
        (∀ k, k < 2 → Memory.read s.buf (0 + k) = [0x41#8, 0x42#8][k]?) ∧
        ∀ k, k < 2 → Memory.read s.buf (0 + 2 + k) = [0x43#8, 0x44#8][k]? := by decide

/-- The operands of the six half-round and whitening micro-operations, in a round and with `R = 0`. -/
theorem witness_block_operands :
    (let s := blockState .encBytes 0x4FEC 0x0BC4;
      s.w = some .w16 ∧ s.r = some 1 ∧ s.a = some 0x4FEC ∧ s.b = some 0x0BC4 ∧ s.rc = some 1 ∧
        s.sch[0]? = some 0x0DAB ∧ s.sch[1]? = some 0xC781 ∧ s.sch[2 * 1]? = some 0xB49F ∧
        s.sch[2 * 1 + 1]? = some 0x5931) ∧
      ({ blockState .encBytes 1 2 with r := some 0, sch := [0x7865, 0x33F4] } : State).sch[1]? = some 0x33F4 := by decide

theorem witness_Enc0AddsTheFirstWords : (blockState .encBytes 1 2).sch[0]? = some 0x0DAB ∧ (blockState .encBytes 1 2).r = some 1 := by
  decide

theorem witness_EncaUpdatesA : (blockState .encBytes 1 2).rc = some 1 ∧ (blockState .encBytes 1 2).sch[2 * 1]? = some 0xB49F := by
  decide

/-- The last round, and a round that another follows. -/
theorem witness_EncbUpdatesB :
    (blockState .encBytes 1 2).sch[2 * 1 + 1]? = some 0x5931 ∧ ¬1 + 1 ≤ 1 ∧
      ({ blockState .encBytes 1 2 with r := some 2 } : State).r = some 2 ∧ 1 + 1 ≤ 2 := by decide

theorem witness_BlkstStoresTheBlock :
    let s := blockState .encBytes 0xF723 0x4070
    s.desc.map (·.op) = some .encBytes ∧ s.w = some .w16 ∧ s.len = some 4 ∧ s.blk = some 0 ∧ s.a = some 0xF723 ∧
      s.b = some 0x4070 ∧ 0 * (2 * WordSize.w16.bits / 8) + 2 * WordSize.w16.bits / 8 ≤ 4 := by decide

theorem witness_DecbUndoesB :
    (blockState .decBytes 1 2).rc = some 1 ∧ (blockState .decBytes 1 2).sch[2 * 1 + 1]? = some 0x5931 := by decide

theorem witness_DecaUndoesA :
    (blockState .decBytes 1 2).rc = some 1 ∧ (blockState .decBytes 1 2).sch[2 * 1]? = some 0xB49F := by decide

theorem witness_Dec0SubtractsTheFirstWords :
    (blockState .decBytes 1 2).sch[0]? = some 0x0DAB ∧ (blockState .decBytes 1 2).sch[1]? = some 0xC781 := by decide

/-- A length that needs 7 bytes and fills `BUF_CAP = 16`, and an aligned one. -/
theorem witness_PadFillsTheLastBlock :
    ({ withBuf (call .encBytes .w32 0 [] []) (List.replicate 9 1#8) with cfg := smallConfig } : State).len = some 9 ∧
      (9 + (2 * WordSize.w32.bits / 8 - 9 % (2 * WordSize.w32.bits / 8)) ≤ 16) ∧ smallConfig.bufCap = some 16 ∧
      (bufState .encrypt .w16 []).len = some 0 := by decide

theorem witness_UnpadIsLenient :
    (∀ x ∈ [0x00#8, 0x01#8, 0x04#8, 0x05#8],
      (bufState .decBytes .w16 [1#8, 1#8, 1#8, x]).w = some .w16 ∧ (bufState .decBytes .w16 [1#8, 1#8, 1#8, x]).len = some 4 ∧
        Memory.read (bufState .decBytes .w16 [1#8, 1#8, 1#8, x]).buf (4 - 1) = some x) ∧
      4 % (2 * WordSize.w16.bits / 8) = 0 ∧ (bufState .decBytes .w16 []).len = some 0 := by decide

theorem witness_UnpadAfterPad :
    [0x41#8].length % (2 * WordSize.w16.bits / 8) ≠ 0 ∧
      [0x41#8, 0x42#8, 0x43#8, 0x01#8].length % (2 * WordSize.w16.bits / 8) = 0 ∧
      [0x41#8, 0x42#8, 0x43#8, 0x04#8].getLast? = some 0x04#8 ∧
      [0x41#8, 0x42#8, 0x43#8, 0x05#8].getLast? = some 0x05#8 := by decide

/-- The empty buffer, and one that fills `BUF_CAP`. -/
theorem witness_results :
    ∃ s s' : State, s.len = some 0 ∧ filled s.buf 0 ∧ s'.len = some 16 ∧ filled s'.buf 16 ∧ s'.cfg.bufCap = some 16 := by
  refine ⟨bufState .encrypt .w16 [], { bufState .encrypt .w16 (List.replicate 16 7#8) with cfg := smallConfig },
    rfl, ?_, rfl, ?_, rfl⟩
  · unfold filled; decide
  · unfold filled; decide

theorem witness_HexencWritesTheString : (bufState .encrypt .w16 [0xA6#8]).len = some 1 ∧ filled (bufState .encrypt .w16 [0xA6#8]).buf 1 := by
  refine ⟨rfl, ?_⟩
  unfold filled; decide

theorem witness_StorepCopiesTheBuffer : (bufState .decBytes .w16 [0xA6#8]).len = some 1 ∧ filled (bufState .decBytes .w16 [0xA6#8]).buf 1 := by
  refine ⟨rfl, ?_⟩
  unfold filled; decide

theorem witness_HexDigitTable : 15 < 16 ∧ 5 < 6 ∧ (hexVal .both 0x66#8).isSome = true := by decide

/-- `aF` decodes to `AF`, and encodes back to `AF`. -/
theorem witness_HexDecodeInvertsEncode : hexDecode .both [0x61#8, 0x46#8] = some [0xAF#8] ∧ hexEncode [0xAF#8] = [0x41#8, 0x46#8] := by
  decide

theorem witness_FailEndsTheCall : ({ mixState2 with kind := some .arg } : State).kind = some .arg := rfl

theorem witness_PrimitiveLaws : 0xFFFF < 2 ^ WordSize.w16.bits ∧ 15 < WordSize.w16.bits := by decide

theorem witness_RotlMovesBits :
    0xFFFFFFFFFFFFFFFF < 2 ^ WordSize.w64.bits ∧ 63 < WordSize.w64.bits ∧ WordSize.w64.bits ≤ 64 := by decide

theorem witness_ByteWordConversions : 1 < 2 ∧ 0xFFFF < 256 ^ 2 := by decide

theorem witness_BlockRoundTrip :
    1 ≤ 255 ∧ sched16.length = 2 * (1 + 1) ∧ (∀ k ∈ sched16, k < 2 ^ WordSize.w16.bits) ∧
      0xFFFF < 2 ^ WordSize.w16.bits := by decide

/-- Both of R109's cases. -/
theorem witness_CommandRoundTrip :
    defaultConfig.wf = true ∧ [0x6B#8].length ≤ 255 ∧ [0x41#8, 0x42#8, 0x43#8].length % (2 * WordSize.w16.bits / 8) ≠ 0 ∧
      [0x41#8, 0x42#8, 0x43#8, 0x01#8].length % (2 * WordSize.w16.bits / 8) = 0 ∧
      [0x41#8, 0x42#8, 0x43#8, 0x01#8].getLast? = some 0x01#8 := by decide

/-- Texts that are their own bytes. -/
def bytesAsText : TextCodec (List Byte) where
  utf8 := id
  utf8Decode := id
  lossless _ := rfl

theorem witness_TextRoundTrip :
    defaultConfig.wf = true ∧ (bytesAsText.utf8 [0x6B#8]).length ≤ 255 ∧
      ∀ q, (bytesAsText.utf8 [0x41#8, 0x42#8, 0x43#8, 0x44#8]).getLast? = some q →
        (bytesAsText.utf8 [0x41#8, 0x42#8, 0x43#8, 0x44#8]).length % (2 * WordSize.w16.bits / 8) = 0 →
        q.toNat = 0 ∨ 2 * WordSize.w16.bits / 8 < q.toNat := by
  refine ⟨by decide, by decide, fun q h _ => ?_⟩
  cases h
  decide

theorem witness_BlockIndependence : [0x41#8, 0x42#8, 0x43#8, 0x44#8].length % (2 * WordSize.w16.bits / 8) = 0 := by decide

/-- The state `ready`, with any moves of HOST to come, meets the invariant. -/
theorem ready_inv (moves : List HostMove) : Inv { ready with host := moves } where
  config := by show ready.cfg.wf = true; decide
  memories := ⟨rfl, rfl, rfl, rfl, rfl⟩
  command := rfl
  busyPhase := ⟨fun h => (Bool.false_ne_true h).elim, fun h => (h rfl).elim⟩
  oneFlag := ⟨fun h => (Bool.false_ne_true h).elim, fun h => (Bool.false_ne_true h).elim⟩
  errorCode := rfl
  result := fun _ => rfl
  phase := ⟨rfl, rfl, rfl⟩
  supply := ⟨rfl, rfl, fun _ => Option.some.inj, fun _ => Option.some.inj, fun _ => Option.some.inj,
    fun _ => Option.some.inj, fun _ _ => id, fun _ _ => id, fun h => (Bool.false_ne_true h).elim⟩

/-- What HOST wrote is a whole descriptor. -/
theorem ready_supplied (moves : List HostMove) : Supplied { ready with host := moves } := by
  refine ⟨⟨_, _, _, _, rfl, rfl, rfl, rfl⟩, fun _ k hk => ?_, fun k hk => ?_⟩
  · obtain rfl : k = 0 := Nat.lt_one_iff.1 hk
    rfl
  · obtain rfl | rfl : k = 0 ∨ k = 1 := by
      have : k < 2 := hk
      omega
    · rfl
    · rfl

theorem witness_LatchTakesTheDescriptor_supplied :
    Inv { ready with host := [] } ∧ ready.busy = false ∧
      MoveAllowed { ready with host := [] } (.writeCmd (commandCode .decBytes)) ∧ ready.klenIn.toNat ≤ 255 ∧
      0 < ready.klenIn.toNat ∧ 1 < (latch .decBytes ready).payload.length :=
  ⟨ready_inv _, rfl, ⟨⟨rfl, fun h => (Bool.false_ne_true h).elim⟩, fun _ => trivial, fun _ => ready_supplied _⟩, by decide, by decide, by decide⟩

theorem roundState_inv : Inv roundState where
  config := by decide
  memories := by decide
  command := rfl
  busyPhase := by decide
  oneFlag := by decide
  errorCode := rfl
  result := fun h => (Bool.false_ne_true h.symm).elim
  phase := by
    refine ⟨rfl, _, rfl, ⟨rfl, rfl⟩, rfl, .w16, 1, 1, 4, ⟨rfl, rfl, by decide, rfl, by decide, ?_⟩, ⟨rfl, rfl, ?_⟩,
      ⟨rfl, ?_⟩, ⟨rfl, 0, rfl, by decide⟩, ⟨0x4FEC, 0x0BC4, rfl, rfl, by decide, by decide⟩, 1, rfl, by decide, by decide⟩
    · unfold filled; decide
    · unfold filled; decide
    · unfold wordsBounded; decide
  supply := ⟨rfl, rfl, nofun, nofun, nofun, nofun, nofun, nofun, fun _ => rfl⟩

/-- R71: during a call HOST may read `STATUS`, and nothing else; between calls it may read. -/
theorem test_move_allowed :
    MoveAllowed roundState (.readReg .status) ∧ ¬MoveAllowed roundState (.readReg .wIn) ∧
      ¬MoveAllowed roundState (.readReg .cmd) ∧ ¬MoveAllowed roundState (.readOutmem 0) ∧ MoveAllowed ready (.readReg .wIn) :=
  ⟨⟨⟨rfl, fun _ => trivial⟩, fun _ => rfl, fun _ => trivial⟩, fun h => (nomatch h.2.1 rfl), fun h => (nomatch h.2.1 rfl),
    fun h => h.2.1 rfl, ⟨⟨rfl, fun _ => trivial⟩, fun h => (nomatch h), fun _ => trivial⟩⟩

theorem witness_StepKeepsTheInvariant : ∃ s t : State, Inv s ∧ s.busy = true ∧ step s = .next t :=
  ⟨roundState, _, roundState_inv, rfl, rfl⟩

theorem witness_NoStepFaults :
    ∃ s : State, Inv s ∧ (∀ m rest, s.host = m :: rest → MoveLegal s m) ∧ s.host = [.writeKeymem 254 1#8] := by
  refine ⟨{ ready with host := [.writeKeymem 254 1#8] }, ready_inv _, fun m rest h => ?_, rfl⟩
  cases h
  exact ⟨rfl, fun h => (Bool.false_ne_true h).elim⟩

/-- The first clause: right after reset every instruction with an operand lacks its first one, and inside a round `ENCB` can lack
its last one. -/
theorem witness_UnwrittenReadsFault_registers :
    [Instr.validate, .ksel, .hexenc, .fail].map (fun i => (operands i).find? (lacks State.reset)) =
        [some .desc, some .w, some .len, some .kind] ∧
      (operands .encb).find? (lacks { blockState .encBytes 1 2 with rc := none }) = some .rc := by decide

/-- The latched key and the latched string are one byte short; the limits of `LOADP` are met. -/
theorem witness_UnwrittenReadsFault_latched :
    (let d := { descOf .encBytes 16#32 0#32 [1#8] [0x30#8] with bIn := 2#32, pIn := 2#32 };
      (d.wReq.toInt = 16 ∨ d.wReq.toInt = 32 ∨ d.wReq.toInt = 64) ∧ 0 ≤ d.rReq.toInt ∧ d.rReq.toInt ≤ 255 ∧
        d.bIn.toNat ≤ 255 ∧ d.key.length < d.bIn.toNat ∧ d.pIn.toNat ≤ 16 - (2 * WordSize.w16.bits / 8 - 1) ∧
        d.pIn.toNat % 2 = 0 ∧ (∀ ch ∈ d.payload, (hexVal .both ch).isSome = true) ∧ d.pIn.toNat / 2 ≤ 16 ∧
        d.payload.length < d.pIn.toNat) ∧ smallConfig.bufCap = some 16 ∧ smallConfig.hexInCase = .both := by decide

/-- `KPACK` on a key of which byte 1 is missing; `KMIX` without `S[0]`, without `L[0]`, and in the last iteration without a
descriptor or, on the decrypt side, without `LEN`. -/
theorem witness_UnwrittenReadsFault_schedule :
    (let s := { call .encBytes .w16 0 [1#8] [] with blen := some 2 };
      HasOperands .kpack s ∧ s.blen = some 2 ∧ Memory.read s.key 1 = none) ∧
      (HasOperands .kmix { mixState2 with sch := [] } ∧ ({ mixState2 with sch := [] } : State).sch[0]? = none) ∧
      (HasOperands .kmix { mixState2 with l := [] } ∧ mixState2.sch[0]?.isSome = true ∧
        ({ mixState2 with l := [] } : State).l[0]? = none) ∧
      (let s := { mixState5 with len := none, desc := some (descOf .decBytes 16#32 0#32 [] []) };
        HasOperands .kmix s ∧ s.sch[1]?.isSome = true ∧ s.l[0]?.isSome = true ∧
          3 * max (2 * (0 + 1)) ((max 0 1 + (WordSize.w16.bits / 8 - 1)) / (WordSize.w16.bits / 8)) ≤ 5 + 1 ∧
          HasOperands .kmix { s with desc := none }) := by
  unfold HasOperands
  decide

/-- The six that read `S`, on a schedule of one word or none; `BLKLD` of a block of which byte 3 is missing, and without `R`;
`UNPAD`, `HEXENC` and `STOREP` on a buffer of which the last byte is missing. -/
theorem witness_UnwrittenReadsFault_blocks :
    (let s := { blockState .encBytes 1 2 with sch := [1] };
      s.sch[1]? = none ∧ s.sch[2 * 1]? = none ∧ s.sch[2 * 1 + 1]? = none ∧
        ∀ i ∈ [Instr.enc0, .enca, .encb, .decb, .deca, .dec0], HasOperands i s) ∧
      (let s := { blockState .decBytes 1 2 with buf := mem [1#8, 2#8, 3#8] };
        0 * (2 * WordSize.w16.bits / 8) + 2 * WordSize.w16.bits / 8 ≤ 4 ∧ s.len = some 4 ∧ s.blk = some 0 ∧
          Memory.read s.buf (0 * (2 * WordSize.w16.bits / 8) + 3) = none ∧ HasOperands .unpad s) ∧
      ({ blockState .decBytes 1 2 with r := none } : State).r = none ∧
      ∀ k, k < 2 * WordSize.w16.bits / 8 →
        (Memory.read (blockState .decBytes 1 2).buf (0 * (2 * WordSize.w16.bits / 8) + k)).isSome = true := by
  unfold HasOperands
  decide

/-- Block 1 of a one-block buffer; 17 bytes, to be padded to 20 where `BUF_CAP` is 16; 17 bytes of which 16 fit, and 33 where
`OUTMEM` has 32. -/
theorem witness_AccessesOutsideFault :
    (let s := { blockState .encBytes 1 2 with blk := some 1 };
      s.blk = some 1 ∧ s.len = some 4 ∧ 4 < 1 * (2 * WordSize.w16.bits / 8) + 2 * WordSize.w16.bits / 8) ∧
      (let s := { bufState .encBytes .w16 (List.replicate 17 0#8) with cfg := smallConfig };
        s.desc.map (·.op) = some .encBytes ∧ s.w = some .w16 ∧ s.len = some 17 ∧ s.cfg.bufCap = some 16 ∧
          s.cfg.wf = true ∧ 17 % (2 * WordSize.w16.bits / 8) = 1 ∧ 16 < 17 + (2 * WordSize.w16.bits / 8 - 1)) ∧
      smallConfig.bufCap = some 16 ∧ 16 < (List.replicate 17 0#8 : List Byte).length ∧
      (∀ k, k < 33 → (Memory.read (mem (List.replicate 33 0#8)) k).isSome = true) ∧ 2 * 16 < 33 := by decide +kernel

theorem witness_EveryCallEnds :
    ∃ s : State, Inv s ∧ s.busy = false ∧ s.host = [.writeCmd 1#8] := ⟨_, ready_inv [.writeCmd 1#8], rfl, rfl⟩

theorem witness_CallComputesItsResult :
    ∃ s : State, Inv s ∧ s.busy = false ∧ s.host = [.writeCmd (commandCode .decrypt)] :=
  ⟨_, ready_inv [.writeCmd (commandCode .decrypt)], rfl, rfl⟩

/-- Two states that differ in what HOST read last, and that both have the call in their first step behind them after one. -/
theorem witness_NothingCarriesOver :
    ∃ (s s' t : State), Inv s ∧ Inv s' ∧ s.busy = false ∧ s'.busy = false ∧ s ≠ s' ∧ s.cfg = s'.cfg ∧
      latch .encBytes s = latch .encBytes s' ∧ s.host = [.writeCmd (commandCode .encBytes)] ∧
      s'.host = [.writeCmd (commandCode .encBytes)] ∧ Reaches (0 + 1) s t := by
  refine ⟨{ ready with host := [.writeCmd 3#8] }, { ready with host := [.writeCmd 3#8], rdata := 5#32 }, _, ready_inv _,
    ⟨by show ready.cfg.wf = true; decide, ⟨rfl, rfl, rfl, rfl, rfl⟩,
      rfl, ⟨fun h => (Bool.false_ne_true h).elim, fun h => (h rfl).elim⟩,
      ⟨fun h => (Bool.false_ne_true h).elim, fun h => (Bool.false_ne_true h).elim⟩, rfl, fun _ => rfl, ⟨rfl, rfl, rfl⟩,
      (ready_inv [.writeCmd 3#8]).supply⟩,
    rfl, rfl, ?_, rfl, rfl, rfl, rfl, rfl⟩
  intro h
  exact absurd (congrArg State.rdata h) (by decide)

theorem witness_whole_machine :
    ∃ (i : Instr) (s t : State), exec i s = .next t ∧
      i ∈ [Instr.ksel, .kpack, .sinit, .kmix0, .kmix, .pad, .blkld, .enc0, .enca, .encb, .blkst, .decb,
        .deca, .dec0, .unpad, .hexenc, .storep, .finish] ∧
      i ∉ [Instr.loadp, .hexdec, .pad, .unpad] ∧ i ≠ .validate :=
  ⟨.enca, roundState, _, rfl, by decide, by decide, by decide⟩

theorem witness_OnlyTheNamedOnesRaise : ∃ t, exec .finish roundState = .next t := ⟨_, rfl⟩

/-- One that neither starts nor ends a call, and one that ends it. -/
theorem witness_StorageWriters :
    (∃ t, exec .kmix0 roundState = .next t) ∧ ∃ t, exec .finish roundState = .next t := ⟨⟨_, rfl⟩, ⟨_, rfl⟩⟩

theorem witness_InstructionsLeaveTheInputs : (∃ t, exec .encrypt ready = .next t) ∧ ∃ t, step roundState = .next t :=
  ⟨⟨_, rfl⟩, ⟨_, rfl⟩⟩

/-- The boundaries of both windows: `KEYMEM[254]`, byte 255, `INMEM[31]` and byte 32 with `BUF_CAP = 16`. -/
theorem witness_HostWrites :
    ready.busy = false ∧ 254 < 255 ∧ 255 ≤ 255 ∧ smallConfig.bufCap = some 16 ∧ 31 < 2 * 16 ∧ 2 * 16 ≤ 32 ∧
      ({ ready with host := [.writeReg .plenIn 7#32, .readReg .plenIn] } : State).host =
        .writeReg .plenIn 7#32 :: .readReg .plenIn :: [] ∧
      ({ roundState with host := [.writeKeymem 0 1#8] } : State).busy = true := by decide

theorem witness_HostReads :
    ∃ s t : State, s.busy = false ∧ 0 < s.olen.toNat ∧ Memory.read s.outmem 0 = some 0x41#8 ∧ s.cfg.bufCap = none ∧
      s.host = .readOutmem 0 :: [] ∧ step s = .next t ∧
      ({ s with host := [.readReg .errcode] } : State).host = .readReg .errcode :: [] :=
  ⟨{ State.reset with done := true, olen := 1#32, outmem := mem [0x41#8], host := [.readOutmem 0] }, _,
    rfl, by decide, rfl, rfl, rfl, rfl, rfl⟩

/-- During a call a read of `STATUS` and of an input is answered, and one of `ERRCODE` or of an `OUTMEM` byte goes on with any
value (log 6). -/
theorem witness_HostReads_busy :
    ∀ m ∈ [HostMove.readReg .status, .readReg .klenIn, .readReg .errcode, .readOutmem 0],
      ∃ t, step { roundState with host := [m] } = .next t := by
  intro m hm
  simp only [List.mem_cons, List.not_mem_nil, or_false] at hm
  rcases hm with rfl | rfl | rfl | rfl <;> exact ⟨_, rfl⟩

end Sys2Proof.Tests
end

section
/-! PROOFS. The arithmetic primitives (R14 to R18, R21) and the byte and word conversions (R23, R24): `add_w` and `sub_w`
undo each other, a rotation exchanges the two parts of a word, and `le_word` and `le_bytes` are inverse to each other. -/

namespace Sys2Proof.Machine

/-! ### Addition and subtraction -/

theorem subW_addW {w : WordSize} {x y : Nat} (hx : x < 2 ^ w.bits) (hy : y < 2 ^ w.bits) :
    subW w (addW w x y) y = x := by
  rw [subW, addW, Nat.add_sub_assoc hy.le, Nat.mod_add_mod, show x + y + (2 ^ w.bits - y) = x + 2 ^ w.bits by omega,
    Nat.add_mod_right, Nat.mod_eq_of_lt hx]

theorem addW_subW {w : WordSize} {x y : Nat} (hx : x < 2 ^ w.bits) (hy : y < 2 ^ w.bits) :
    addW w (subW w x y) y = x := by
  rw [addW, subW, Nat.mod_add_mod, show x + 2 ^ w.bits - y + y = x + 2 ^ w.bits by omega, Nat.add_mod_right,
    Nat.mod_eq_of_lt hx]

@[simp] theorem xorW_xorW (x y : Nat) : xorW (xorW x y) y = x := Nat.xor_xor_cancel_right x y

/-! ### Rotations

A word is a high part `hi` of `n` bits beside a low part `lo` of `w - n` bits. Rotating left by `n` exchanges the two, and
rotating right by `n` exchanges them back. -/

/-- `rotl_w` without its reduction mod `2 ^ w`. -/
theorem rotl_eq {w : WordSize} {n : Nat} (hn : n ≤ w.bits) (x : Nat) :
    rotl w x n = 2 ^ n * (x % 2 ^ (w.bits - n)) + x / 2 ^ (w.bits - n) := by
  rw [rotl, shift_mod _ _ _ hn, mul_comm]

theorem rotl_parts {w : WordSize} {n lo : Nat} (hn : n ≤ w.bits) (hlo : lo < 2 ^ (w.bits - n)) (hi : Nat) :
    rotl w (2 ^ (w.bits - n) * hi + lo) n = 2 ^ n * lo + hi := by
  rw [rotl_eq hn, Nat.mul_add_mod, Nat.mod_eq_of_lt hlo, Nat.mul_add_div (by positivity), Nat.div_eq_of_lt hlo, Nat.add_zero]

theorem rotr_parts (w : WordSize) {n hi : Nat} (hhi : hi < 2 ^ n) (lo : Nat) :
    rotr w (2 ^ n * lo + hi) n = 2 ^ (w.bits - n) * hi + lo := by
  rw [rotr, Nat.mul_add_mod, Nat.mod_eq_of_lt hhi, Nat.mul_add_div (by positivity), Nat.div_eq_of_lt hhi, Nat.add_zero,
    mul_comm hi, Nat.add_comm]

/-- The high part of a word has `n` bits. -/
theorem high_part_lt {w : WordSize} {x n : Nat} (hx : x < 2 ^ w.bits) (hn : n ≤ w.bits) :
    x / 2 ^ (w.bits - n) < 2 ^ n :=
  Nat.div_lt_of_lt_mul (by rwa [pow_sub_mul_pow 2 hn])

theorem rotr_rotl {w : WordSize} {x n : Nat} (hx : x < 2 ^ w.bits) (hn : n ≤ w.bits) :
    rotr w (rotl w x n) n = x := by
  rw [rotl_eq hn, rotr_parts w (high_part_lt hx hn), Nat.div_add_mod]

theorem rotl_rotr {w : WordSize} {x n : Nat} (hx : x < 2 ^ w.bits) (hn : n ≤ w.bits) :
    rotl w (rotr w x n) n = x := by
  have hlo : x / 2 ^ n < 2 ^ (w.bits - n) := Nat.div_lt_of_lt_mul (by rwa [mul_comm, pow_sub_mul_pow 2 hn])
  rw [rotr, Nat.add_comm, mul_comm, rotl_parts hn hlo, Nat.div_add_mod]

theorem rotl_zero {w : WordSize} {x : Nat} (hx : x < 2 ^ w.bits) : rotl w x 0 = x := by
  rw [rotl, pow_zero, mul_one, Nat.sub_zero, Nat.mod_eq_of_lt hx, Nat.div_eq_of_lt hx, Nat.add_zero]

/-- Bit `i` of a rotated word: the low `n` bits are the high part of `x`, those above are its low part. -/
theorem testBit_rotl {w : WordSize} {x n : Nat} (hx : x < 2 ^ w.bits) (hn : n ≤ w.bits) (i : Nat) :
    (rotl w x n).testBit i =
      if i < n then x.testBit (i + (w.bits - n)) else decide (i - n < w.bits - n) && x.testBit (i - n) := by
  rw [rotl_eq hn, Nat.testBit_two_pow_mul_add _ (high_part_lt hx hn), Nat.testBit_div_two_pow, Nat.testBit_mod_two_pow]

theorem testBit_rotl_add_mod {w : WordSize} {x n k : Nat} (hx : x < 2 ^ w.bits) (hn : n < w.bits) (hk : k < w.bits) :
    (rotl w x n).testBit ((k + n) % w.bits) = x.testBit k := by
  rw [testBit_rotl hx hn.le]
  rcases lt_or_ge (k + n) w.bits with h | h
  · have hlow : k < w.bits - n := by omega
    rw [Nat.mod_eq_of_lt h, if_neg (by omega), Nat.add_sub_cancel, decide_eq_true hlow, Bool.true_and]
  · rw [Nat.mod_eq_sub_mod h, Nat.mod_eq_of_lt (by omega), if_pos (by omega),
      show k + n - w.bits + (w.bits - n) = k by omega]

/-! ### Bytes and words -/

theorem leWord_eq_sum (xs : List Byte) :
    leWord xs = ∑ k ∈ Finset.range xs.length, (xs.getD k 0#8).toNat * 256 ^ k := by
  induction xs with
  | nil => rfl
  | cons x xs ih =>
    rw [leWord, ih, List.length_cons, Finset.sum_range_succ', Finset.mul_sum, Nat.add_comm]
    simp only [List.getD_cons_succ, List.getD_cons_zero, pow_zero, mul_one, pow_succ', Nat.mul_left_comm]

theorem leWord_leBytes {u x : Nat} (hx : x < 256 ^ u) : leWord (leBytes u x) = x := by
  induction u generalizing x with
  | zero => rw [pow_zero] at hx; rw [leBytes, leWord]; omega
  | succ u ih =>
    have hrest : x / 256 < 256 ^ u := Nat.div_lt_of_lt_mul (by rwa [← pow_succ'])
    rw [leBytes, leWord, ih hrest, BitVec.toNat_ofNat]
    exact Nat.mod_add_div x 256

theorem leBytes_leWord (xs : List Byte) : leBytes xs.length (leWord xs) = xs := by
  induction xs with
  | nil => rfl
  | cons x xs ih =>
    have hx := x.isLt
    have hhead : BitVec.ofNat 8 (x.toNat + 256 * leWord xs) = x := by
      apply BitVec.eq_of_toNat_eq
      rw [BitVec.toNat_ofNat]
      omega
    have htail : (x.toNat + 256 * leWord xs) / 256 = leWord xs := by omega
    rw [List.length_cons, leWord, leBytes, hhead, htail, ih]

/-! ### The statements -/

/-- Settles O40: `add_w` and `sub_w` undo each other, and so do the two exchanges of a word's parts. -/
theorem primitiveLaws : Obligations.PrimitiveLaws := fun w x y _ hx hy hn =>
  ⟨subW_addW hx hy, addW_subW hx hy, xorW_xorW x y, rotr_rotl hx hn.le, rotl_rotr hx hn.le,
    addW_lt w x y, subW_lt w x y, xorW_lt hx hy, rotl_lt hx hn, rotr_lt hx hn⟩

/-- Settles O41, from the bits of the two parts that the rotation exchanges. -/
theorem rotlMovesBits : Obligations.RotlMovesBits := fun _ _ _ hx hn =>
  ⟨rotl_zero hx, fun _ hk => testBit_rotl_add_mod hx hn hk, fun _ hk =>
    Nat.testBit_lt_two_pow ((rotl_lt hx hn).trans_le (Nat.pow_le_pow_right two_pos hk))⟩

/-- Settles O42, by induction on the bytes. -/
theorem byteWordConversions : Obligations.ByteWordConversions :=
  ⟨leWord_eq_sum, leBytes_getElem?, fun _ _ => leWord_leBytes, leBytes_leWord⟩

end Sys2Proof.Machine
end

section
/-! PROOFS. Two ways to reason about an outcome, with one rule per shared operation: what holds of the
next state if there is one (`Ensures`), and that there is one, of which something holds (`GoesOn`). -/

namespace Sys2Proof.Machine

/-- If the outcome goes on, `P` holds of the next state. -/
def Ensures (x : Result) (P : State → Prop) : Prop := ∀ t, x = .next t → P t

theorem ensures_next {P : State → Prop} {t : State} (h : P t) : Ensures (.next t) P := by
  rintro _ ⟨⟩
  exact h

theorem ensures_of_eq {P : State → Prop} {x : Result} {t : State} (hx : x = .next t) (h : P t) : Ensures x P :=
  hx ▸ ensures_next h

theorem ensures_fault {P : State → Prop} {r : Fault} : Ensures (.fault r) P := by
  rintro _ ⟨⟩

theorem ensures_refused {P : State → Prop} {r : Refusal} : Ensures (.refused r) P := by
  rintro _ ⟨⟩

theorem Ensures.imp {P Q : State → Prop} {x : Result} (h : Ensures x P) (hPQ : ∀ t, P t → Q t) : Ensures x Q :=
  fun t ht => hPQ t (h t ht)

theorem ensures_need {α : Type} {P : State → Prop} {loc : Loc} {x : Option α} {f : α → Result}
    (h : ∀ v, Ensures (f v) P) : Ensures (need loc x f) P := fun t ht => by
  obtain ⟨v, -, hv⟩ := need_eq_next.1 ht
  exact h v t hv

theorem ensures_inSpace {P : State → Prop} {loc : Loc} {ok : Bool} {k : Result} (h : ok = true → Ensures k P) :
    Ensures (inSpace loc ok k) P := fun t ht => by
  obtain ⟨hok, hk⟩ := inSpace_eq_next.1 ht
  exact h hok t hk

theorem ensures_ite {P : State → Prop} {c : Prop} [Decidable c] {x y : Result} (hx : c → Ensures x P)
    (hy : ¬c → Ensures y P) : Ensures (if c then x else y) P := by
  split
  · exact hx ‹_›
  · exact hy ‹_›

/-- `goto` changes `PH` alone. -/
theorem ensures_goto {P : State → Prop} {i : Instr} {s : State} (h : ∀ p, P { s with ph := p }) :
    Ensures (.next (goto i s)) P := by
  have hph : goto i s = { s with ph := (goto i s).ph } := by cases i <;> rfl
  exact ensures_next (hph ▸ h _)

/-- The outcome goes on, to a state of which `P` holds. -/
def GoesOn (x : Result) (P : State → Prop) : Prop := ∃ t, x = .next t ∧ P t

theorem goesOn_next {P : State → Prop} {t : State} (h : P t) : GoesOn (.next t) P := ⟨t, rfl, h⟩

theorem goesOn_need {α : Type} {P : State → Prop} {loc : Loc} {x : Option α} {v : α} {f : α → Result} (hx : x = some v)
    (h : GoesOn (f v) P) : GoesOn (need loc x f) P := by
  rwa [need_of_eq hx]

theorem goesOn_inSpace {P : State → Prop} {loc : Loc} {ok : Bool} {k : Result} (hok : ok = true) (h : GoesOn k P) :
    GoesOn (inSpace loc ok k) P := by
  rwa [hok, inSpace_true]

theorem goesOn_ite {P : State → Prop} {c : Prop} [Decidable c] {x y : Result} (hx : c → GoesOn x P)
    (hy : ¬c → GoesOn y P) : GoesOn (if c then x else y) P := by
  split
  · exact hx ‹_›
  · exact hy ‹_›

theorem GoesOn.ensures {P : State → Prop} {x : Result} (h : GoesOn x P) : Ensures x P := by
  obtain ⟨t, rfl, ht⟩ := h
  exact ensures_next ht

end Sys2Proof.Machine
end

section
/-! PROOFS. What the fetch runs: a micro-operation for a phase code, the start of a call for a `CMD`
value, and runs step by step. -/

namespace Sys2Proof.Machine

theorem execIdle_none {s : State} (h : s.cmd = none) : exec .idle s = .next s := by
  simp only [exec, execIdle, h]

theorem execIdle_some {s : State} {v : BitVec 8} (h : s.cmd = some v) : exec .idle s = startCall (opOfCommand v) s := by
  simp only [exec, execIdle, h]

theorem engineStep_of_ok {s : State} {i : Instr} (h : decodePhase s.ph = .ok i) :
    engineStep s = exec i (tick s.busy.toNat s) := by
  simp only [engineStep, h]

theorem engineStep_of_error {s : State} {e : Reject} (h : decodePhase s.ph = .error e) :
    engineStep s = .fault (.reservedPhase s.ph) := by
  simp only [engineStep, h]

/-- A `CMD` value that decodes names one of the four operations (R81). -/
theorem decodeCommand_eq_ok {v : BitVec 8} {i : Instr} (h : decodeCommand v = .ok i) : ∃ op : Op, i = op.instr := by
  unfold decodeCommand at h
  split at h
  · exact ⟨.encrypt, (Except.ok.inj h).symm⟩
  · exact ⟨.decrypt, (Except.ok.inj h).symm⟩
  · exact ⟨.encBytes, (Except.ok.inj h).symm⟩
  · exact ⟨.decBytes, (Except.ok.inj h).symm⟩
  · cases h

theorem commandOp_instr (op : Op) : commandOp op.instr = some op := by cases op <;> rfl

theorem exec_instr (op : Op) (s : State) : exec op.instr s = startCall (some op) s := by cases op <;> rfl

/-- A write of `CMD` starts the call of its operation, or is illegal (R90, R106). -/
theorem commandStep_eq (v : BitVec 8) (s : State) :
    commandStep v s = startCall (opOfCommand v) { s with cmd := some v } := by
  cases h : decodeCommand v with
  | error e =>
    simp only [commandStep, h]
    exact execIdle_some rfl
  | ok i =>
    obtain ⟨op, rfl⟩ := decodeCommand_eq_ok h
    simp only [commandStep, h, opOfCommand, commandOp_instr, exec_instr]

theorem opOfCommand_commandCode (op : Op) : opOfCommand (commandCode op) = some op := by cases op <;> rfl

/-- No phase code is a command's, so what ENGINE runs is never one (R83). -/
theorem phaseCode_of_decodePhase {p : BitVec 5} {i : Instr} (h : decodePhase p = .ok i) : phaseCode i = some p := by
  unfold decodePhase at h
  split at h <;> cases h <;> exact congrArg some (BitVec.eq_of_toNat_eq (Eq.symm ‹_›))

theorem decodePhase_goto {i : Instr} {p : BitVec 5} (h : phaseCode i = some p) (s : State) :
    decodePhase (goto i s).ph = .ok i := by
  cases i <;> cases h <;> rfl

theorem goto_ph {i : Instr} {p : BitVec 5} (h : phaseCode i = some p) (s : State) : (goto i s).ph = p := by
  cases i <;> cases h <;> rfl

theorem reaches_succ {k : Nat} {s t : State} : Reaches (k + 1) s t ↔ ∃ u, step s = .next u ∧ Reaches k u t := by
  unfold Reaches
  simp only [Host.Core.run]
  rw [show core.step s = step s from rfl]
  cases step s <;> simp

/-- Settles O6, from the two ways the fetch finds an instruction. -/
theorem stepRunsTheDecodedInstruction : Obligations.StepRunsTheDecodedInstruction := by
  refine fun s i => ⟨fun hi => ⟨fun hh => ?_, fun rest hh => ?_⟩, fun v rest hh hi => ?_⟩
  · exact (step_of_host_nil hh).trans (engineStep_of_ok hi)
  · exact (step_of_host_cons hh).trans (engineStep_of_ok (s := { s with host := rest }) hi)
  · rw [step_of_host_cons hh, moveStep, commandStep, hi]
    rfl

end Sys2Proof.Machine
end

section
/-! PROOFS. Who writes what: for each micro-operation the fields it can change, and what the start and
the end of a call change. From these come the writers of the internal storage (R32 to R39, R60, R247) and
the frame of every instruction (R47, R74, R242). -/

namespace Sys2Proof.Machine

/-- The instructions that take a `CMD` write: the four commands and `IDLE`. -/
def takesCommand : List Instr := [.encrypt, .decrypt, .encBytes, .decBytes, .idle]

/-- The instructions that start or end a call, and `IDLE`. -/
def boundary : List Instr := [.encrypt, .decrypt, .encBytes, .decBytes, .idle, .finish, .fail]

/-- `s`, with the fields that `i` can write taken from `t`; of an instruction at the boundary of a call
nothing is said here. -/
def written (i : Instr) (s t : State) : State :=
  match i with
  | .encrypt | .decrypt | .encBytes | .decBytes | .idle | .finish | .fail => t
  | .validate => { s with ph := t.ph, kind := t.kind, w := t.w, r := t.r, blen := t.blen, key := t.key }
  | .ksel => { s with ph := t.ph, p := t.p, q := t.q }
  | .kpack => { s with ph := t.ph, l := t.l }
  | .sinit => { s with ph := t.ph, sch := t.sch }
  | .kmix0 => { s with ph := t.ph, ka := t.ka, kb := t.kb, i := t.i, j := t.j, n := t.n }
  | .kmix =>
    { s with ph := t.ph, sch := t.sch, l := t.l, ka := t.ka, kb := t.kb, i := t.i, j := t.j, n := t.n, blk := t.blk }
  | .loadp | .hexdec => { s with ph := t.ph, kind := t.kind, buf := t.buf, len := t.len }
  | .lenchk => { s with ph := t.ph, kind := t.kind }
  | .pad => { s with ph := t.ph, buf := t.buf, len := t.len, blk := t.blk }
  | .blkld | .enc0 | .encb | .deca => { s with ph := t.ph, a := t.a, b := t.b, rc := t.rc }
  | .enca | .decb | .dec0 => { s with ph := t.ph, a := t.a, b := t.b }
  | .blkst => { s with ph := t.ph, buf := t.buf, blk := t.blk }
  | .unpad => { s with ph := t.ph, len := t.len }
  | .hexenc | .storep => { s with ph := t.ph, outmem := t.outmem, olen := t.olen }

/-- Every instruction writes the fields `written` names, and no other. -/
theorem exec_writes (i : Instr) (s : State) : Ensures (exec i s) fun t => t = written i s t := by
  cases i with
  | encrypt | decrypt | encBytes | decBytes | idle | finish | fail => exact fun _ _ => rfl
  | ksel | kpack | sinit | kmix0 | enc0 | enca | encb | decb | deca | dec0 =>
    repeat refine ensures_need fun _ => ?_
    exact ensures_goto fun _ => rfl
  | pad | blkst | hexenc | storep =>
    repeat refine ensures_need fun _ => ?_
    exact ensures_inSpace fun _ => ensures_goto fun _ => rfl
  | validate =>
    refine ensures_need fun d => ?_
    cases wordSizeOf d.wReq.toInt with
    | none => exact ensures_next rfl
    | some w =>
      refine ensures_ite (fun _ => ensures_ite (fun _ => ?_) fun _ => ensures_next rfl) fun _ => ensures_next rfl
      exact ensures_need fun _ => ensures_goto fun _ => rfl
  | kmix =>
    repeat refine ensures_need fun _ => ?_
    refine ensures_ite (fun _ => ensures_goto fun _ => rfl) fun _ => ensures_need fun _ =>
      ensures_ite (fun _ => ensures_goto fun _ => rfl) fun _ => ?_
    exact ensures_need fun _ => ensures_need fun _ => ensures_goto fun _ => rfl
  | loadp =>
    refine ensures_need fun _ => ensures_need fun _ => ensures_ite (fun _ => ?_) fun _ => ensures_next rfl
    exact ensures_need fun _ => ensures_goto fun _ => rfl
  | hexdec =>
    refine ensures_need fun _ =>
      ensures_ite (fun _ => ensures_ite (fun _ => ?_) fun _ => ensures_next rfl) fun _ => ensures_next rfl
    exact ensures_need fun _ => ensures_need fun _ => ensures_goto fun _ => rfl
  | lenchk =>
    exact ensures_need fun _ => ensures_need fun _ =>
      ensures_ite (fun _ => ensures_goto fun _ => rfl) fun _ => ensures_next rfl
  | blkld =>
    iterate 4 refine ensures_need fun _ => ?_
    refine ensures_inSpace fun _ => ensures_need fun _ => ensures_need fun _ =>
      ensures_ite (fun _ => ensures_goto fun _ => rfl) fun _ => ?_
    exact ensures_need fun _ => ensures_goto fun _ => rfl
  | unpad =>
    refine ensures_need fun _ => ensures_need fun _ => ensures_ite (fun _ => ensures_goto fun _ => rfl) fun _ => ?_
    exact ensures_need fun _ => ensures_goto fun _ => rfl

/-- `s` with nothing internal left, and what the start or the end of a call writes besides taken from `t`. -/
def cleared (s t : State) : State :=
  { clearInternal s with
    ph := t.ph, cmd := t.cmd, busy := t.busy, done := t.done, err := t.err, errcode := t.errcode, olen := t.olen,
    desc := t.desc, kind := t.kind, supply := t.supply }

/-- A start of a call is not taken, or leaves nothing internal and uses up what HOST supplied. -/
theorem startCall_writes (op : Option Op) (s : State) :
    Ensures (startCall op s) fun t => t = { s with cmd := t.cmd } ∨ t = cleared s t ∧ t.supply = .nothing := by
  cases hb : s.busy with
  | true => exact ensures_of_eq (startCall_of_busy op hb) (.inl (by rw [hb]))
  | false =>
    cases op with
    | none => exact ensures_of_eq (startCall_illegal hb) (.inr ⟨rfl, rfl⟩)
    | some op => exact ensures_of_eq (startCall_command op hb) (.inr ⟨rfl, rfl⟩)

/-- What `i`, which starts or ends a call, can do: nothing but take a `CMD` write, or leave nothing
internal; only a start uses up what HOST supplied. -/
def atBoundary (i : Instr) (s t : State) : Prop :=
  t = { s with cmd := t.cmd } ∨ t = cleared s t ∧
    (t.supply = s.supply ∨ i ∈ takesCommand ∧ t.supply = .nothing)

theorem startCall_at_boundary {i : Instr} (hi : i ∈ takesCommand) (op : Option Op) (s : State) :
    Ensures (startCall op s) (atBoundary i s) :=
  (startCall_writes op s).imp fun _ h => h.imp_right fun ⟨ht, hs⟩ => ⟨ht, .inr ⟨hi, hs⟩⟩

theorem exec_at_boundary {i : Instr} (hi : i ∈ boundary) (s : State) : Ensures (exec i s) (atBoundary i s) := by
  cases i with
  | encrypt => exact startCall_at_boundary (by decide) (some .encrypt) s
  | decrypt => exact startCall_at_boundary (by decide) (some .decrypt) s
  | encBytes => exact startCall_at_boundary (by decide) (some .encBytes) s
  | decBytes => exact startCall_at_boundary (by decide) (some .decBytes) s
  | idle =>
    cases hc : s.cmd with
    | none => exact ensures_of_eq (execIdle_none hc) (.inl rfl)
    | some v => exact execIdle_some hc ▸ startCall_at_boundary (by decide) _ s
  | finish => exact ensures_next (.inr ⟨rfl, .inl rfl⟩)
  | fail => exact ensures_need fun _ => ensures_next (.inr ⟨rfl, .inl rfl⟩)
  | _ => exact absurd hi (by decide)

/-- Settles O56, from the fields each instruction can write. -/
theorem storageWriters : Obligations.StorageWriters := by
  intro i s t h
  by_cases hi : i ∈ boundary
  · obtain ht | ⟨ht, -⟩ := exec_at_boundary hi s t h
    · rw [ht]
      simp
    · rw [ht]
      have hends : i ∈ [Instr.encrypt, .decrypt, .encBytes, .decBytes, .idle, .finish, .fail] := hi
      simp only [hends, cleared]
      simp
  · rw [exec_writes i s t h]
    cases i with
    | encrypt | decrypt | encBytes | decBytes | idle | finish | fail => exact absurd (by decide) hi
    | _ => simp [written]

/-- What an instruction leaves alone whichever it is: the configuration, the inputs and what is HOST's. -/
theorem exec_leaves_inputs {i : Instr} {s t : State} (h : exec i s = .next t) :
    t.cfg = s.cfg ∧ t.wIn = s.wIn ∧ t.rIn = s.rIn ∧ t.klenIn = s.klenIn ∧ t.plenIn = s.plenIn ∧
      t.keymem = s.keymem ∧ t.inmem = s.inmem ∧ t.host = s.host ∧ t.rdata = s.rdata ∧
      t.epoch = s.epoch ∧ t.fresh = s.fresh ∧
      (t.supply = s.supply ∨ i ∈ takesCommand ∧ t.supply = .nothing) := by
  by_cases hi : i ∈ boundary
  · obtain ht | ⟨ht, hs⟩ := exec_at_boundary hi s t h
    · rw [ht]
      simp
    · refine ⟨?_, ?_, ?_, ?_, ?_, ?_, ?_, ?_, ?_, ?_, ?_, hs⟩ <;> exact ht ▸ rfl
  · rw [exec_writes i s t h]
    cases i with
    | encrypt | decrypt | encBytes | decBytes | idle | finish | fail => exact absurd (by decide) hi
    | _ => simp [written]

theorem exec_cfg (i : Instr) (s : State) : Ensures (exec i s) fun t => t.cfg = s.cfg := fun _ h => (exec_leaves_inputs h).1

theorem engineStep_cfg (s : State) : Ensures (engineStep s) fun t => t.cfg = s.cfg := by
  cases h : decodePhase s.ph with
  | error e => exact engineStep_of_error h ▸ ensures_fault
  | ok i => exact engineStep_of_ok h ▸ exec_cfg i _

/-- No move of HOST writes the configuration (R242). -/
theorem moveStep_cfg (m : HostMove) (s : State) : Ensures (moveStep m s) fun t => t.cfg = s.cfg := by
  cases m with
  | run => exact engineStep_cfg s
  | reset => exact ensures_next rfl
  | writeCmd v =>
    intro t h
    obtain ht | ⟨ht, -⟩ := startCall_writes _ _ t ((commandStep_eq v _).symm.trans h) <;> exact ht ▸ rfl
  | writeReg r v => cases r <;> exact ensures_ite (fun _ => ensures_refused) fun _ => ensures_next rfl
  | readReg r => exact ensures_ite (fun _ => ensures_next rfl) fun _ => ensures_next rfl
  | writeKeymem k v => exact ensures_ite (fun _ => ensures_refused) fun _ => ensures_inSpace fun _ => ensures_next rfl
  | writeInmem k v => exact ensures_ite (fun _ => ensures_refused) fun _ => ensures_inSpace fun _ => ensures_next rfl
  | readOutmem k =>
    refine ensures_inSpace fun _ => ensures_ite (fun _ => ensures_next rfl) fun _ => ?_
    cases s.outmem.read k <;> exact ensures_next rfl

/-- Settles O57, from the fields an instruction can write and the accesses of HOST. -/
theorem instructionsLeaveTheInputs : Obligations.InstructionsLeaveTheInputs := by
  refine ⟨fun _ _ _ h => exec_leaves_inputs h, fun s t h => ?_⟩
  cases hh : s.host with
  | nil => exact engineStep_cfg s t ((step_of_host_nil hh).symm.trans h)
  | cons m rest => exact moveStep_cfg m { s with host := rest } t ((step_of_host_cons hh).symm.trans h)

end Sys2Proof.Machine
end

section
/-! PROOFS. The clauses of the invariant (R49): what a stage gives the proofs that read it, the sizes
that keep it, and where a call is between two micro-operations. -/

namespace Sys2Proof.Machine

/-! ### The clauses of a stage -/

theorem hasParams.w_eq {s : State} {w : WordSize} {r b : Nat} : hasParams s w r b → s.w = some w
  | ⟨hw, _⟩ => hw

theorem hasParams.r_eq {s : State} {w : WordSize} {r b : Nat} : hasParams s w r b → s.r = some r
  | ⟨_, hr, _⟩ => hr

theorem hasParams.blen_eq {s : State} {w : WordSize} {r b : Nat} : hasParams s w r b → s.blen = some b
  | ⟨_, _, _, hb, _⟩ => hb

theorem hasParams.key_filled {s : State} {w : WordSize} {r b : Nat} : hasParams s w r b → filled s.key b
  | ⟨_, _, _, _, _, hk⟩ => hk

theorem hasBuf.len_eq {s : State} {len : Nat} : hasBuf s len → s.len = some len
  | ⟨hl, _⟩ => hl

theorem hasBuf.fits {s : State} {len : Nat} : hasBuf s len → fits s.cfg.bufCap len = true
  | ⟨_, hf, _⟩ => hf

theorem hasBuf.filled {s : State} {len : Nat} : hasBuf s len → filled s.buf len
  | ⟨_, _, hf⟩ => hf

/-- The two words of the schedule that a round reads, and for round 0 those of the whitening (R35). -/
theorem hasSchedule.round_words {s : State} {w : WordSize} {r i : Nat} (h : hasSchedule s w r) (hi : i ≤ r) :
    ∃ x y, s.sch[2 * i]? = some x ∧ s.sch[2 * i + 1]? = some y := by
  have hl : s.sch.length = 2 * (r + 1) := h.1
  exact ⟨_, _, List.getElem?_eq_getElem (by omega), List.getElem?_eq_getElem (by omega)⟩

/-- Every index below `t` holds a word of the schedule. -/
theorem hasSchedule.getElem? {s : State} {w : WordSize} {r k : Nat} (h : hasSchedule s w r) (hk : k < scheduleLength r) :
    ∃ x, s.sch[k]? = some x :=
  ⟨_, List.getElem?_eq_getElem (h.1 ▸ hk)⟩

theorem hasKeyWords.getElem? {s : State} {w : WordSize} {b k : Nat} (h : hasKeyWords s w b) (hk : k < keyWords w b) :
    ∃ x, s.l[k]? = some x :=
  ⟨_, List.getElem?_eq_getElem (h.1 ▸ hk)⟩

theorem hasSchedule.set {s : State} {w : WordSize} {r v : Nat} (h : hasSchedule s w r) (k : Nat) (hv : v < 2 ^ w.bits) :
    hasSchedule { s with sch := s.sch.set k v } w r :=
  ⟨(List.length_set ..).trans h.1, wordsBounded_set h.2 hv⟩

theorem hasKeyWords.set {s : State} {w : WordSize} {b v : Nat} (h : hasKeyWords s w b) (k : Nat) (hv : v < 2 ^ w.bits) :
    hasKeyWords { s with l := s.l.set k v } w b :=
  ⟨(List.length_set ..).trans h.1, wordsBounded_set h.2 hv⟩

theorem bufReady_of_encrypts {s : State} {op : Op} {w : WordSize} {len : Nat} (he : encrypts op = true) :
    bufReady s op w len ↔ fits s.cfg.bufCap (len + (blockBytes w - 1)) = true := by
  simp only [bufReady, he, if_true]

theorem bufReady_of_decrypts {s : State} {op : Op} {w : WordSize} {len : Nat} (he : encrypts op = false) :
    bufReady s op w len ↔ len % blockBytes w = 0 := by
  simp only [bufReady, he, Bool.false_eq_true, if_false]

theorem encrypts_eq_true {op : Op} : encrypts op = true ↔ op = .encrypt ∨ op = .encBytes := by cases op <;> decide

theorem encrypts_eq_false {op : Op} : encrypts op = false ↔ op = .decrypt ∨ op = .decBytes := by cases op <;> decide

/-! ### Sizes -/

theorem fits_iff {cap : Option Nat} {n : Nat} : fits cap n = true ↔ ∀ c, cap = some c → n ≤ c := by
  cases cap <;> simp [fits]

/-- A bounded buffer has room for a block (R10). -/
theorem blockBytes_le_bufCap {c : Config} {cap : Nat} (hc : c.wf = true) (hcap : c.bufCap = some cap) (w : WordSize) :
    blockBytes w ≤ cap := by
  have hw := blockBytes_le w
  simp only [Config.wf, hcap, bufCapWf, Bool.and_eq_true, decide_eq_true_eq] at hc
  omega

/-- What fits the window of the payload is latched whole (R249). -/
theorem payloadFit_eq {c : Config} {n : Nat} (h : ∀ cap, c.bufCap = some cap → n ≤ 2 * cap) : payloadFit c n = n := by
  cases hc : c.bufCap with
  | none => simp [payloadFit, windowCap, hc]
  | some cap => simpa [payloadFit, windowCap, hc] using h cap hc

/-- The constants of a legal table are words (R9). -/
theorem magicOf_lt {m : Magic} (hm : m.wf = true) (w : WordSize) :
    (magicOf m w).p < 2 ^ w.bits ∧ (magicOf m w).q < 2 ^ w.bits := by
  simp only [Magic.wf, MagicPair.wf, Bool.and_eq_true, decide_eq_true_eq] at hm
  cases w <;> simp only [magicOf] <;> tauto

theorem padCount_le (w : WordSize) (len : Nat) : padCount (blockBytes w) len ≤ blockBytes w - 1 := by
  have := blockBytes_pos w
  simp only [padCount]
  split <;> omega

/-- Padding reaches a block boundary (R187). -/
theorem add_padCount_mod (w : WordSize) (len : Nat) : (len + padCount (blockBytes w) len) % blockBytes w = 0 := by
  have hpos := blockBytes_pos w
  have hlt := Nat.mod_lt len hpos
  simp only [padCount]
  split
  · simpa using (show len % blockBytes w = 0 by omega)
  · have hsum : len + (blockBytes w - len % blockBytes w) = len / blockBytes w * blockBytes w + blockBytes w := by
      have := Nat.div_add_mod' len (blockBytes w)
      omega
    rw [hsum, Nat.add_mod_right, Nat.mul_mod_left]

/-- Block `blk` of a buffer of whole blocks lies inside it. -/
theorem block_le {bs len blk : Nat} (h : blk < len / bs) : blk * bs + bs ≤ len := by
  calc blk * bs + bs = (blk + 1) * bs := (Nat.succ_mul blk bs).symm
    _ ≤ len / bs * bs := Nat.mul_le_mul_right bs h
    _ ≤ len := Nat.div_mul_le_self len bs

/-- What `PAD` appends fills the buffer up to its new end (R185). -/
theorem filled_padded {m : Memory} {len : Nat} (h : filled m len) (n : Nat) (v : Byte) :
    filled (writeBytes m len (List.replicate n v)) (len + n) := by
  simpa using filled_append (xs := List.replicate n v) h

theorem filled_mono {m : Memory} {n k : Nat} (h : filled m n) (hk : k ≤ n) : filled m k :=
  fun x hx => h x (lt_of_lt_of_le hx hk)

theorem takeExact_of_length {α : Type} {xs : List α} {n : Nat} (h : xs.length = n) : takeExact xs n = some xs := by
  rw [takeExact, if_pos h.ge, ← h, List.take_length]

theorem takeExact_of_lt {α : Type} {xs : List α} {n : Nat} (h : xs.length < n) : takeExact xs n = none :=
  if_neg (Nat.not_le.2 h)

/-- The limit of `LOADP` (R102): the payload fits, on the encrypt side with its padding. -/
theorem fits_of_loadLimit {c : Config} {w : WordSize} {op : Op} {n : Nat} (hc : c.wf = true)
    (h : fits (loadLimit c w op) n = true) :
    fits c.bufCap n = true ∧ (encrypts op = true → fits c.bufCap (n + (blockBytes w - 1)) = true) := by
  cases hcap : c.bufCap with
  | none => exact ⟨rfl, fun _ => rfl⟩
  | some cap =>
    have hbs := blockBytes_le_bufCap hc hcap w
    simp only [loadLimit, hcap, Option.map_some, fits, decide_eq_true_eq] at h ⊢
    cases he : encrypts op with
    | true =>
      rw [he, if_pos rfl] at h
      exact ⟨by omega, fun _ => by omega⟩
    | false =>
      rw [he, if_neg Bool.false_ne_true] at h
      exact ⟨h, nofun⟩

/-! ### A call, and what follows one of its micro-operations -/

/-- What the invariant says inside the call of `d`, whatever its next micro-operation. -/
structure InCall (s : State) (d : Descriptor) : Prop where
  config  : s.cfg.wf = true
  key     : Memory.wf s.key = true
  buf     : Memory.wf s.buf = true
  outmem  : Memory.wf s.outmem = true
  kind    : s.kind = none
  desc    : s.desc = some d
  latched : descOk s.cfg d

/-- What the invariant says, of the fields a micro-operation can write, inside a call. -/
structure CallGoesOn (t : State) : Prop where
  key    : Memory.wf t.key = true
  buf    : Memory.wf t.buf = true
  outmem : Memory.wf t.outmem = true
  busy   : t.ph ≠ 0#5
  phase  : phaseInv t

/-- A reserved phase code never comes up. -/
theorem not_phaseInv_of_error {s : State} {e : Reject} (hp : decodePhase s.ph = .error e) : ¬phaseInv s := by
  unfold phaseInv
  rw [hp]
  exact id

theorem phaseInv_idle_iff {s : State} (hp : decodePhase s.ph = .ok .idle) :
    phaseInv s ↔ s.desc = none ∧ s.kind = none ∧ clearInternal s = s := by
  unfold phaseInv
  rw [hp]

theorem phaseInv_fail_iff {s : State} (hp : decodePhase s.ph = .ok .fail) : phaseInv s ↔ s.kind.isSome = true := by
  unfold phaseInv
  rw [hp]

theorem phaseInv_iff {s : State} {i : Instr} (hp : decodePhase s.ph = .ok i) (hidle : i ≠ .idle) (hfail : i ≠ .fail) :
    phaseInv s ↔ s.kind = none ∧ ∃ d, s.desc = some d ∧ descOk s.cfg d ∧ stage s d i := by
  unfold phaseInv
  rw [hp]
  cases i with
  | idle => exact absurd rfl hidle
  | fail => exact absurd rfl hfail
  | _ => rfl

/-- Only micro-operations of a call have a stage. -/
theorem stage_instr {s : State} {d : Descriptor} {i : Instr} (h : stage s d i) :
    i ≠ .idle ∧ i ≠ .fail ∧ ∃ p, phaseCode i = some p ∧ p ≠ 0#5 := by
  cases i with
  | encrypt | decrypt | encBytes | decBytes | idle | fail => exact h.elim
  | _ => exact ⟨nofun, nofun, _, rfl, by decide⟩

theorem stage_goto {s : State} {d : Descriptor} {i : Instr} (j : Instr) (h : stage s d i) : stage (goto j s) d i := by
  cases j <;> exact h

/-- A call goes on to a micro-operation whose stage has been reached. -/
theorem InCall.goto {s : State} {d : Descriptor} {i : Instr} (h : InCall s d) (hs : stage s d i) :
    GoesOn (.next (goto i s)) CallGoesOn := by
  obtain ⟨hidle, hfail, p, hp, hp0⟩ := stage_instr hs
  refine goesOn_next ⟨by simpa using h.key, by simpa using h.buf, by simpa using h.outmem, by rwa [goto_ph hp], ?_⟩
  refine (phaseInv_iff (decodePhase_goto hp s) hidle hfail).2 ⟨by simpa using h.kind, d, by simpa using h.desc, ?_, ?_⟩
  · simpa using h.latched
  · exact stage_goto i hs

/-- A call that raises goes on to `FAIL`. -/
theorem InCall.raise {s : State} {d : Descriptor} (h : InCall s d) (e : FailKind) : GoesOn (raise e s) CallGoesOn :=
  goesOn_next ⟨h.key, h.buf, h.outmem, by rw [goto_fail_ph]; decide, rfl⟩

end Sys2Proof.Machine
end

section
/-! PROOFS. Inside a call the invariant is kept and no micro-operation stops: one lemma per
micro-operation, which from its stage finds every operand and shows the stage of the micro-operation that
follows (R49, R143, R164, R187). -/

namespace Sys2Proof.Machine

variable {s : State} {d : Descriptor}

/-! ### Validation and loading -/

theorem stage_loadPhase {op : Op} {w : WordSize} {r b : Nat} (hop : d.op = op) (hp : hasParams s w r b) :
    stage s d (loadPhase op) := by
  cases op with
  | decrypt => exact ⟨hop, w, r, b, hp⟩
  | encrypt | encBytes | decBytes => exact ⟨hop ▸ nofun, w, r, b, hp⟩

theorem validate_keeps (h : InCall s d) : GoesOn (exec .validate s) CallGoesOn := by
  refine goesOn_need h.desc ?_
  cases wordSizeOf d.wReq.toInt with
  | none => exact h.raise _
  | some w =>
    refine goesOn_ite (fun hr => goesOn_ite (fun hb => ?_) fun _ => h.raise _) fun _ => h.raise _
    simp only [roundsOk, Bool.and_eq_true, decide_eq_true_eq] at hr
    simp only [keyLenOk, decide_eq_true_eq] at hb
    have hkey : d.key.length = d.bIn.toNat := h.latched.1.trans (min_eq_left hb)
    have hr255 : d.rReq.toInt.toNat ≤ 255 := by omega
    exact goesOn_need (takeExact_of_length hkey) <| InCall.goto { h with key := wf_writeBytes 0 _ h.key } <|
      stage_loadPhase rfl ⟨rfl, rfl, hr255, rfl, hb, filled_writeBytes hkey.ge⟩

theorem stage_afterLoad {w : WordSize} {r b len : Nat} (hp : hasParams s w r b) (hbuf : hasBuf s len)
    (hpad : encrypts d.op = true → fits s.cfg.bufCap (len + (blockBytes w - 1)) = true) : stage s d (afterLoad d.op) := by
  cases he : encrypts d.op with
  | true =>
    rw [afterLoad, he, if_pos rfl]
    exact ⟨w, r, b, len, hp, hbuf, (bufReady_of_encrypts he).2 (hpad he)⟩
  | false =>
    rw [afterLoad, he, if_neg Bool.false_ne_true]
    exact ⟨he, w, r, b, len, hp, hbuf, trivial⟩

theorem loadp_keeps (h : InCall s d) (hs : stage s d .loadp) : GoesOn (exec .loadp s) CallGoesOn := by
  obtain ⟨hop, w, r, b, hp⟩ := hs
  refine goesOn_need h.desc <| goesOn_need hp.w_eq <| goesOn_ite (fun hfit => ?_) fun _ => h.raise _
  obtain ⟨hcap, hpad⟩ := fits_of_loadLimit h.config hfit
  have hlen : d.payload.length = d.pIn.toNat := h.latched.2.trans <| payloadFit_eq fun cap hc => by
    have := fits_iff.1 hcap cap hc
    omega
  exact goesOn_need (takeExact_of_length hlen) <| InCall.goto { h with buf := wf_writeBytes 0 _ h.buf } <|
    stage_afterLoad hp ⟨rfl, hcap, filled_writeBytes hlen.ge⟩ hpad

theorem hexdec_keeps (h : InCall s d) (hs : stage s d .hexdec) : GoesOn (exec .hexdec s) CallGoesOn := by
  obtain ⟨hop, w, r, b, hp⟩ := hs
  refine goesOn_need h.desc <|
    goesOn_ite (fun hok => goesOn_ite (fun hcap => ?_) fun _ => h.raise _) fun _ => h.raise _
  simp only [Bool.and_eq_true, decide_eq_true_eq] at hok
  obtain ⟨heven, hdigits⟩ := hok
  have hlen : d.payload.length = d.pIn.toNat := h.latched.2.trans <| payloadFit_eq fun cap hc => by
    have := fits_iff.1 hcap cap hc
    omega
  obtain ⟨bytes, hdec, hbytes⟩ := hexDecode_of_allDigits s.cfg.hexInCase (d.pIn.toNat / 2) d.payload (by omega) hdigits
  exact goesOn_need (takeExact_of_length hlen) <| goesOn_need hdec <|
    InCall.goto { h with buf := wf_writeBytes 0 _ h.buf }
      ⟨hop ▸ rfl, w, r, b, _, hp, ⟨rfl, hcap, filled_writeBytes hbytes.ge⟩, trivial⟩

theorem lenchk_keeps (h : InCall s d) (hs : stage s d .lenchk) : GoesOn (exec .lenchk s) CallGoesOn := by
  obtain ⟨he, w, r, b, len, hp, hbuf, -⟩ := hs
  refine goesOn_need hp.w_eq <| goesOn_need hbuf.len_eq <| goesOn_ite (fun haligned => ?_) fun _ => h.raise _
  exact InCall.goto { h with } ⟨w, r, b, len, hp, hbuf, (bufReady_of_decrypts he).2 haligned⟩

theorem ksel_keeps (h : InCall s d) (hs : stage s d .ksel) : GoesOn (exec .ksel s) CallGoesOn := by
  obtain ⟨w, r, b, len, hp, hbuf, hready⟩ := hs
  obtain ⟨hP, hQ⟩ := magicOf_lt (Bool.and_eq_true_iff.1 h.config).1 w
  exact goesOn_need hp.w_eq <|
    InCall.goto { h with } ⟨w, r, b, len, hp, hbuf, hready, _, _, rfl, rfl, hP, hQ⟩

theorem kpack_keeps (h : InCall s d) (hs : stage s d .kpack) : GoesOn (exec .kpack s) CallGoesOn := by
  obtain ⟨w, r, b, len, hp, hbuf, hready, hconst⟩ := hs
  obtain ⟨bytes, hbytes, hlen⟩ := readBytes_of_filled hp.key_filled
  exact goesOn_need hp.w_eq <| goesOn_need hp.blen_eq <| goesOn_need hbytes <|
    InCall.goto { h with } ⟨w, r, b, len, hp, hbuf, hready, hconst, hlen ▸ packKey_length w bytes, packKey_lt w bytes⟩

theorem sinit_keeps (h : InCall s d) (hs : stage s d .sinit) : GoesOn (exec .sinit s) CallGoesOn := by
  obtain ⟨w, r, b, len, hp, hbuf, hready, ⟨p, q, hP, hQ, hplt, -⟩, hkw⟩ := hs
  exact goesOn_need hp.w_eq <| goesOn_need hp.r_eq <| goesOn_need hP <| goesOn_need hQ <|
    InCall.goto { h with } ⟨w, r, b, len, hp, hbuf, hready, hkw, progression_length .., progression_lt _ hplt⟩

theorem kmix0_keeps (h : InCall s d) (hs : stage s d .kmix0) : GoesOn (exec .kmix0 s) CallGoesOn := by
  obtain ⟨w, r, b, len, hp, hbuf, hready, hkw, hsch⟩ := hs
  have hpos : 0 < 2 ^ w.bits := by positivity
  exact InCall.goto { h with }
    ⟨w, r, b, len, hp, hbuf, hready, hkw, hsch, 0, 0, 0, rfl, rfl, rfl, hpos, hpos, mixCount_pos w r b,
      congrArg some (Nat.zero_mod _).symm, congrArg some (Nat.zero_mod _).symm⟩

/-! ### The block loop -/

/-- After the last block (R100, R101, R104, R105). -/
theorem stage_afterBlocks {w : WordSize} {r b len : Nat} (hp : hasParams s w r b) (hbuf : hasBuf s len)
    (haligned : len % blockBytes w = 0) : stage s d (afterBlocks d.op) := by
  cases hop : d.op with
  | encrypt => exact ⟨hop, w, r, b, len, hp, hbuf, trivial⟩
  | encBytes => exact ⟨hop ▸ nofun, w, r, b, len, hp, hbuf, trivial⟩
  | decrypt | decBytes => exact ⟨hop ▸ rfl, w, r, b, len, hp, hbuf, haligned⟩

/-- The stage where the block loop goes on with block `blk`, or has passed the last one (R163, R176). -/
theorem stage_block {w : WordSize} {r b len blk : Nat} (hp : hasParams s w r b) (hbuf : hasBuf s len)
    (hsch : hasSchedule s w r) (haligned : len % blockBytes w = 0) (hblk : s.blk = some blk) :
    stage s d (if blk < len / blockBytes w then .blkld else afterBlocks d.op) := by
  split
  · exact ⟨w, r, b, len, hp, hbuf, hsch, haligned, blk, hblk, ‹_›⟩
  · exact stage_afterBlocks hp hbuf haligned

/-- The block loop begins with block 0 unless there is none. -/
theorem startBlocks_eq (op : Op) (w : WordSize) (len : Nat) (s : State) :
    startBlocks op w len s =
      goto (if 0 < len / blockBytes w then .blkld else afterBlocks op) { s with blk := some 0 } := by
  rcases Nat.eq_zero_or_pos (len / blockBytes w) with hq | hq
  · rw [startBlocks, if_pos hq, if_neg (by omega)]
  · rw [startBlocks, if_neg hq.ne', if_pos hq]

/-- A call whose buffer holds whole blocks goes on to the block loop. -/
theorem startBlocks_keeps {w : WordSize} {r b len : Nat} (h : InCall s d) (hp : hasParams s w r b)
    (hbuf : hasBuf s len) (hsch : hasSchedule s w r) (haligned : len % blockBytes w = 0) :
    GoesOn (.next (startBlocks d.op w len s)) CallGoesOn := by
  rw [startBlocks_eq]
  exact InCall.goto { h with } (stage_block hp hbuf hsch haligned rfl)

theorem afterSchedule_keeps {w : WordSize} {r b len : Nat} (h : InCall s d) (hp : hasParams s w r b)
    (hbuf : hasBuf s len) (hready : bufReady s d.op w len) (hsch : hasSchedule s w r) :
    GoesOn (afterSchedule s) CallGoesOn := by
  refine goesOn_need h.desc <| goesOn_ite (fun he => ?_) fun he => ?_
  · exact InCall.goto { h with } ⟨he, w, r, b, len, hp, hbuf, hready, hsch⟩
  · have haligned := (bufReady_of_decrypts (Bool.eq_false_of_not_eq_true he)).1 hready
    exact goesOn_need hp.w_eq <| goesOn_need hbuf.len_eq <| startBlocks_keeps h hp hbuf hsch haligned

theorem kmix_keeps (h : InCall s d) (hs : stage s d .kmix) : GoesOn (exec .kmix s) CallGoesOn := by
  obtain ⟨w, r, b, len, hp, hbuf, hready, hkw, hsch, ka, kb, n, hka, hkb, hn, -, -, -, hi, hj⟩ := hs
  obtain ⟨si, hsi⟩ := hsch.getElem? (Nat.mod_lt n (by have := scheduleLength_pos r; omega))
  obtain ⟨lj, hlj⟩ := hkw.getElem? (Nat.mod_lt n (keyWords_pos w b))
  have hv := mixS_lt s.cfg w si ka kb
  have hq := mixL_lt s.cfg w lj (mixS s.cfg w si ka kb) kb
  have hsch' := hsch.set (n % scheduleLength r) hv
  have hkw' := hkw.set (n % keyWords w b) hq
  refine goesOn_need hp.w_eq <| goesOn_need hp.r_eq <| goesOn_need hp.blen_eq <| goesOn_need hka <| goesOn_need hkb <|
    goesOn_need hi <| goesOn_need hj <| goesOn_need hn <| goesOn_need hsi <| goesOn_need hlj <|
    goesOn_ite (fun hmore => ?_) fun _ => ?_
  · exact InCall.goto { h with } ⟨w, r, b, len, hp, hbuf, hready, hkw', hsch', _, _, _, rfl, rfl, rfl, hv, hq, hmore,
      congrArg some (Nat.mod_add_mod n _ 1), congrArg some (Nat.mod_add_mod n _ 1)⟩
  · exact afterSchedule_keeps { h with } hp hbuf hready hsch'

theorem pad_keeps (h : InCall s d) (hs : stage s d .pad) : GoesOn (exec .pad s) CallGoesOn := by
  obtain ⟨he, w, r, b, len, hp, hbuf, hready, hsch⟩ := hs
  have hroom : fits s.cfg.bufCap (len + padCount (blockBytes w) len) = true :=
    fits_mono ((bufReady_of_encrypts he).1 hready) (Nat.add_le_add_left (padCount_le w len) len)
  exact goesOn_need h.desc <| goesOn_need hp.w_eq <| goesOn_need hbuf.len_eq <| goesOn_inSpace hroom <|
    startBlocks_keeps { h with buf := wf_writeBytes _ _ h.buf } hp
      ⟨rfl, hroom, filled_padded hbuf.filled _ _⟩ hsch (add_padCount_mod w len)

theorem blkld_keeps (h : InCall s d) (hs : stage s d .blkld) : GoesOn (exec .blkld s) CallGoesOn := by
  obtain ⟨w, r, b, len, hp, hbuf, hsch, hblock⟩ := hs
  obtain ⟨-, blk, hblk, hlt⟩ := id hblock
  have hle := block_le hlt
  have hbs := blockBytes_eq w
  obtain ⟨x, hx⟩ := memRead_of_filled (a := blk * blockBytes w) (n := wordBytes w) hbuf.filled (by omega)
  obtain ⟨y, hy⟩ := memRead_of_filled (a := blk * blockBytes w + wordBytes w) (n := wordBytes w) hbuf.filled (by omega)
  have hpair (t : State) (ha : t.a = some x) (hb : t.b = some y) : hasPair t w :=
    ⟨x, y, ha, hb, memRead_lt hx, memRead_lt hy⟩
  refine goesOn_need h.desc <| goesOn_need hp.w_eq <| goesOn_need hbuf.len_eq <| goesOn_need hblk <|
    goesOn_inSpace (decide_eq_true hle) <| goesOn_need hx <| goesOn_need hy <|
    goesOn_ite (fun he => ?_) fun he => goesOn_need hp.r_eq ?_
  · exact InCall.goto { h with } ⟨he, w, r, b, len, hp, hbuf, hsch, hblock, hpair _ rfl rfl⟩
  · have he : encrypts d.op = false := Bool.eq_false_of_not_eq_true he
    refine InCall.goto { h with } ?_
    split
    · exact ⟨he, w, r, b, len, hp, hbuf, hsch, hblock, hpair _ rfl rfl⟩
    · exact ⟨he, w, r, b, len, hp, hbuf, hsch, hblock, hpair _ rfl rfl, r, rfl, by omega, le_rfl⟩

theorem enc0_keeps (h : InCall s d) (hs : stage s d .enc0) : GoesOn (exec .enc0 s) CallGoesOn := by
  obtain ⟨he, w, r, b, len, hp, hbuf, hsch, hblock, x, y, ha, hb, -, -⟩ := hs
  obtain ⟨s0, s1, hs0, hs1⟩ := hsch.round_words (Nat.zero_le r)
  refine goesOn_need hp.w_eq <| goesOn_need hp.r_eq <| goesOn_need ha <| goesOn_need hb <| goesOn_need hs0 <|
    goesOn_need hs1 <| InCall.goto { h with } ?_
  have hpair (t : State) (ha : t.a = some (addW w x s0)) (hb : t.b = some (addW w y s1)) : hasPair t w :=
    ⟨_, _, ha, hb, addW_lt .., addW_lt ..⟩
  split
  · exact ⟨w, r, b, len, hp, hbuf, hsch, hblock, hpair _ rfl rfl⟩
  · exact ⟨he, w, r, b, len, hp, hbuf, hsch, hblock, hpair _ rfl rfl, 1, rfl, le_rfl, by omega⟩

theorem enca_keeps (h : InCall s d) (hs : stage s d .enca) : GoesOn (exec .enca s) CallGoesOn := by
  obtain ⟨he, w, r, b, len, hp, hbuf, hsch, hblock, ⟨x, y, ha, hb, -, hy⟩, rc, hrc, h1, hr⟩ := hs
  obtain ⟨k, -, hk, -⟩ := hsch.round_words hr
  exact goesOn_need hp.w_eq <| goesOn_need ha <| goesOn_need hb <| goesOn_need hrc <| goesOn_need hk <|
    InCall.goto { h with }
      ⟨he, w, r, b, len, hp, hbuf, hsch, hblock, ⟨_, y, rfl, hb, encHalf_lt .., hy⟩, rc, hrc, h1, hr⟩

theorem encb_keeps (h : InCall s d) (hs : stage s d .encb) : GoesOn (exec .encb s) CallGoesOn := by
  obtain ⟨he, w, r, b, len, hp, hbuf, hsch, hblock, ⟨x, y, ha, hb, hx, -⟩, rc, hrc, h1, hr⟩ := hs
  obtain ⟨-, k, -, hk⟩ := hsch.round_words hr
  refine goesOn_need hp.w_eq <| goesOn_need hp.r_eq <| goesOn_need ha <| goesOn_need hb <| goesOn_need hrc <|
    goesOn_need hk <| InCall.goto { h with } ?_
  split
  · exact ⟨he, w, r, b, len, hp, hbuf, hsch, hblock, ⟨x, _, ha, rfl, hx, encHalf_lt ..⟩, rc + 1, rfl, by omega, ‹_›⟩
  · exact ⟨w, r, b, len, hp, hbuf, hsch, hblock, x, _, ha, rfl, hx, encHalf_lt ..⟩

theorem decb_keeps (h : InCall s d) (hs : stage s d .decb) : GoesOn (exec .decb s) CallGoesOn := by
  obtain ⟨he, w, r, b, len, hp, hbuf, hsch, hblock, ⟨x, y, ha, hb, hx, -⟩, rc, hrc, h1, hr⟩ := hs
  obtain ⟨-, k, -, hk⟩ := hsch.round_words hr
  exact goesOn_need hp.w_eq <| goesOn_need ha <| goesOn_need hb <| goesOn_need hrc <| goesOn_need hk <|
    InCall.goto { h with }
      ⟨he, w, r, b, len, hp, hbuf, hsch, hblock, ⟨x, _, ha, rfl, hx, decHalf_lt _ _ _ hx⟩, rc, hrc, h1, hr⟩

theorem deca_keeps (h : InCall s d) (hs : stage s d .deca) : GoesOn (exec .deca s) CallGoesOn := by
  obtain ⟨he, w, r, b, len, hp, hbuf, hsch, hblock, ⟨x, y, ha, hb, -, hy⟩, rc, hrc, h1, hr⟩ := hs
  obtain ⟨k, -, hk, -⟩ := hsch.round_words hr
  refine goesOn_need hp.w_eq <| goesOn_need ha <| goesOn_need hb <| goesOn_need hrc <| goesOn_need hk <|
    InCall.goto { h with } ?_
  split
  · exact ⟨he, w, r, b, len, hp, hbuf, hsch, hblock, ⟨_, y, rfl, hb, decHalf_lt _ _ _ hy, hy⟩, rc - 1, rfl, ‹_›,
      by omega⟩
  · exact ⟨he, w, r, b, len, hp, hbuf, hsch, hblock, _, y, rfl, hb, decHalf_lt _ _ _ hy, hy⟩

theorem dec0_keeps (h : InCall s d) (hs : stage s d .dec0) : GoesOn (exec .dec0 s) CallGoesOn := by
  obtain ⟨-, w, r, b, len, hp, hbuf, hsch, hblock, x, y, ha, hb, -, -⟩ := hs
  obtain ⟨s0, s1, hs0, hs1⟩ := hsch.round_words (Nat.zero_le r)
  exact goesOn_need hp.w_eq <| goesOn_need ha <| goesOn_need hb <| goesOn_need hs0 <| goesOn_need hs1 <|
    InCall.goto { h with } ⟨w, r, b, len, hp, hbuf, hsch, hblock, _, _, rfl, rfl, subW_lt .., subW_lt ..⟩

theorem blkst_keeps (h : InCall s d) (hs : stage s d .blkst) : GoesOn (exec .blkst s) CallGoesOn := by
  obtain ⟨w, r, b, len, hp, hbuf, hsch, ⟨haligned, blk, hblk, hlt⟩, x, y, ha, hb, -, -⟩ := hs
  have hfill := filled_writeBytes_any (a := blk * blockBytes w + wordBytes w) (xs := leBytes (wordBytes w) y) <|
    filled_writeBytes_any (a := blk * blockBytes w) (xs := leBytes (wordBytes w) x) hbuf.filled
  exact goesOn_need h.desc <| goesOn_need hp.w_eq <| goesOn_need hbuf.len_eq <| goesOn_need hblk <| goesOn_need ha <|
    goesOn_need hb <| goesOn_inSpace (decide_eq_true (block_le hlt)) <|
    InCall.goto { h with buf := wf_memWrite _ _ _ (wf_memWrite _ _ _ h.buf) }
      (stage_block hp ⟨hbuf.len_eq, hbuf.fits, hfill⟩ hsch haligned rfl)

/-! ### The result -/

theorem unpad_keeps (h : InCall s d) (hs : stage s d .unpad) : GoesOn (exec .unpad s) CallGoesOn := by
  obtain ⟨he, w, r, b, len, hp, hbuf, -⟩ := hs
  have hop : d.op ≠ .encrypt := fun hop => by simp [hop, encrypts] at he
  refine goesOn_need hp.w_eq <| goesOn_need hbuf.len_eq <| goesOn_ite (fun _ => ?_) fun hlen => ?_
  · exact h.goto ⟨hop, w, r, b, len, hp, hbuf, trivial⟩
  · obtain ⟨q, hq⟩ := Option.isSome_iff_exists.1 (hbuf.filled (len - 1) (by omega))
    have hle := Nat.sub_le len (unpadCount (blockBytes w) len q.toNat)
    exact goesOn_need hq <| InCall.goto { h with }
      ⟨hop, w, r, b, _, hp, ⟨rfl, fits_mono hbuf.fits hle, filled_mono hbuf.filled hle⟩, trivial⟩

/-- Delivering a result that fits `OUTMEM` goes on to `FINISH`, with every byte below `OLEN` written
(R51, R107, R195). -/
theorem deliver_keeps {out : List Byte} (h : InCall s d) (hfits : fits (windowCap s.cfg .outmem) out.length = true) :
    GoesOn (deliver out s) CallGoesOn :=
  goesOn_inSpace hfits <| InCall.goto { h with outmem := wf_writeBytes _ _ h.outmem } <|
    filled_writeBytes (olenOf_le out.length)

theorem hexenc_keeps (h : InCall s d) (hs : stage s d .hexenc) : GoesOn (exec .hexenc s) CallGoesOn := by
  obtain ⟨-, w, r, b, len, hp, hbuf, -⟩ := hs
  obtain ⟨bytes, hbytes, hlen⟩ := readBytes_of_filled hbuf.filled
  refine goesOn_need hbuf.len_eq <| goesOn_need hbytes <| deliver_keeps h ?_
  rw [hexEncode_length, hlen]
  exact fits_outmem hbuf.fits

theorem storep_keeps (h : InCall s d) (hs : stage s d .storep) : GoesOn (exec .storep s) CallGoesOn := by
  obtain ⟨-, w, r, b, len, hp, hbuf, -⟩ := hs
  obtain ⟨bytes, hbytes, hlen⟩ := readBytes_of_filled hbuf.filled
  exact goesOn_need hbuf.len_eq <| goesOn_need hbytes <| deliver_keeps h <|
    fits_mono (fits_outmem hbuf.fits) (by omega)

/-- Every micro-operation of a call before its end finds what it reads, and its successor's stage is
reached. -/
theorem exec_keeps {i : Instr} (h : InCall s d) (hs : stage s d i) (hi : i ≠ .finish) :
    GoesOn (exec i s) CallGoesOn := by
  cases i with
  | encrypt | decrypt | encBytes | decBytes | idle | fail => exact hs.elim
  | finish => exact absurd rfl hi
  | validate => exact validate_keeps h
  | ksel => exact ksel_keeps h hs
  | kpack => exact kpack_keeps h hs
  | sinit => exact sinit_keeps h hs
  | kmix0 => exact kmix0_keeps h hs
  | kmix => exact kmix_keeps h hs
  | loadp => exact loadp_keeps h hs
  | hexdec => exact hexdec_keeps h hs
  | lenchk => exact lenchk_keeps h hs
  | pad => exact pad_keeps h hs
  | blkld => exact blkld_keeps h hs
  | enc0 => exact enc0_keeps h hs
  | enca => exact enca_keeps h hs
  | encb => exact encb_keeps h hs
  | blkst => exact blkst_keeps h hs
  | decb => exact decb_keeps h hs
  | deca => exact deca_keeps h hs
  | dec0 => exact dec0_keeps h hs
  | unpad => exact unpad_keeps h hs
  | hexenc => exact hexenc_keeps h hs
  | storep => exact storep_keeps h hs

end Sys2Proof.Machine
end

section
/-! PROOFS. The invariant over whole steps: the micro-operations of a call, its start and its end, the
reset, and the accesses of HOST. A move ENGINE cannot take ends in a fault or a refusal, so a step that
goes on keeps the invariant. -/

namespace Sys2Proof.Machine

/-- `s`, with the inputs and what is HOST's taken from `t`. -/
def hostWritten (s t : State) : State :=
  { s with
    wIn := t.wIn, rIn := t.rIn, klenIn := t.klenIn, plenIn := t.plenIn, keymem := t.keymem, inmem := t.inmem, host := t.host,
    supply := t.supply, rdata := t.rdata, epoch := t.epoch, fresh := t.fresh }

theorem phaseInv_hostWritten {s : State} (h : phaseInv s) (t : State) : phaseInv (hostWritten s t) := by
  cases hp : decodePhase s.ph with
  | error e => exact absurd h (not_phaseInv_of_error hp)
  | ok i =>
    have hp' : decodePhase (hostWritten s t).ph = .ok i := hp
    cases i with
    | idle =>
      obtain ⟨hd, hk, hc⟩ := (phaseInv_idle_iff hp).1 h
      exact (phaseInv_idle_iff hp').2 ⟨hd, hk, congrArg (hostWritten · t) hc⟩
    | fail => exact (phaseInv_fail_iff hp').2 ((phaseInv_fail_iff hp).1 h)
    | _ => exact (phaseInv_iff hp' nofun nofun).2 ((phaseInv_iff hp nofun nofun).1 h)

theorem Inv.keymem_wf {s : State} (h : Inv s) : Memory.wf s.keymem = true := h.memories.1

theorem Inv.inmem_wf {s : State} (h : Inv s) : Memory.wf s.inmem = true := h.memories.2.1

/-- The memories where a call starts or ends: the windows as they were, nothing internal. -/
theorem Inv.memories_cleared {s : State} (h : Inv s) : Memory.wf s.keymem = true ∧ Memory.wf s.inmem = true ∧
    Memory.wf s.outmem = true ∧ Memory.wf [] = true ∧ Memory.wf [] = true := by
  obtain ⟨hkm, him, hout, -, -⟩ := h.memories
  exact ⟨hkm, him, hout, rfl, rfl⟩

/-- What HOST writes is in the clauses on its windows and on what it supplied alone. -/
theorem Inv.of_host {s t : State} (h : Inv s) (ht : t = hostWritten s t) (hkm : Memory.wf t.keymem = true)
    (him : Memory.wf t.inmem = true) (hs : supplyInv t) : Inv t := by
  have hphase := phaseInv_hostWritten h.phase t
  obtain ⟨-, -, hout, hkey, hbuf⟩ := h.memories
  rw [ht] at hkm him hs ⊢
  exact ⟨h.config, ⟨hkm, him, hout, hkey, hbuf⟩, h.command, h.busyPhase, h.oneFlag, h.errorCode, h.result, hphase, hs⟩

/-- The moves to come and the count of steps are in no clause of the invariant. -/
theorem Inv.host_fresh {s : State} (h : Inv s) (moves : List HostMove) (fresh : Nat) :
    Inv { s with host := moves, fresh := fresh } := h.of_host rfl h.keymem_wf h.inmem_wf h.supply

/-- Nor is the answer HOST was given last. -/
theorem Inv.answered {s : State} (h : Inv s) (x : BitVec 32) : Inv { s with rdata := x } :=
  h.of_host rfl h.keymem_wf h.inmem_wf h.supply

/-- The state after reset meets the invariant under every legal configuration. -/
theorem inv_reset {c : Config} (hc : c.wf = true) : Inv { State.reset with cfg := c } where
  config := hc
  memories := ⟨rfl, rfl, rfl, rfl, rfl⟩
  command := rfl
  busyPhase := iff_of_false Bool.false_ne_true (· rfl)
  oneFlag := ⟨nofun, nofun⟩
  errorCode := rfl
  result := fun _ => rfl
  phase := ⟨rfl, rfl, rfl⟩
  supply := supplyInv_of_nothing rfl

/-- Settles O47: the configuration after reset is a legal one. -/
theorem resetMeetsTheInvariant : Obligations.ResetMeetsTheInvariant := inv_reset (c := defaultConfig) (by decide)

/-! ### During a call -/

theorem Inv.supply_of_busy {s : State} (h : Inv s) (hb : s.busy = true) : s.supply = .nothing := by
  obtain ⟨-, -, -, -, -, -, -, -, hs⟩ := h.supply
  exact hs hb

/-- Outside `IDLE` and `FAIL` the invariant is the stage of the micro-operation that is next. -/
theorem Inv.inCall {s : State} {i : Instr} (h : Inv s) (hp : decodePhase s.ph = .ok i) (hidle : i ≠ .idle)
    (hfail : i ≠ .fail) : ∃ d, InCall s d ∧ stage s d i := by
  obtain ⟨hkind, d, hd, hlatched, hs⟩ := (phaseInv_iff hp hidle hfail).1 h.phase
  obtain ⟨-, -, hout, hkey, hbuf⟩ := h.memories
  exact ⟨d, ⟨h.config, hkey, hbuf, hout, hkind, hd, hlatched⟩, hs⟩

theorem Inv.busy_of_phase {s : State} {i : Instr} (h : Inv s) (hp : decodePhase s.ph = .ok i) (hidle : i ≠ .idle) :
    s.busy = true := by
  refine h.busyPhase.2 fun h0 => hidle ?_
  rw [h0] at hp
  exact (Except.ok.inj hp).symm

/-- The flags, and a `CMD` write to be taken, are changed at the boundary of a call alone. -/
theorem exec_flags {i : Instr} {s t : State} (hi : i ∉ boundary) (h : exec i s = .next t) :
    t.cmd = s.cmd ∧ t.busy = s.busy ∧ t.done = s.done ∧ t.err = s.err ∧ t.errcode = s.errcode := by
  rw [exec_writes i s t h]
  cases i with
  | encrypt | decrypt | encBytes | decBytes | idle | finish | fail => exact absurd (by decide) hi
  | _ => exact ⟨rfl, rfl, rfl, rfl, rfl⟩

/-- A micro-operation of a call that goes on keeps the invariant, if it keeps it of the fields it can
write. -/
theorem Inv.of_callGoesOn {i : Instr} {s t : State} (h : Inv s) (hb : s.busy = true) (hi : i ∉ boundary)
    (he : exec i s = .next t) (ht : CallGoesOn t) : Inv t := by
  obtain ⟨hcmd, hbusy, hdone, herr, hcode⟩ := exec_flags hi he
  obtain ⟨hcfg, -, -, -, -, hkm, him, -, -, -, -, hsup⟩ := exec_leaves_inputs he
  obtain ⟨hd0, he0⟩ := h.oneFlag.1 hb
  have hsup : t.supply = .nothing := by
    obtain hsup | ⟨-, hsup⟩ := hsup
    · exact hsup.trans (h.supply_of_busy hb)
    · exact hsup
  have htb : t.busy = true := hbusy.trans hb
  exact {
    config := hcfg ▸ h.config
    memories := ⟨hkm ▸ h.keymem_wf, him ▸ h.inmem_wf, ht.outmem, ht.key, ht.buf⟩
    command := hcmd.trans h.command
    busyPhase := iff_of_true htb ht.busy
    oneFlag := by rw [hbusy, hdone, herr]; exact h.oneFlag
    errorCode := by rw [herr, hcode]; exact h.errorCode
    result := by rw [hdone, hd0, htb]; exact nofun
    phase := ht.phase
    supply := supplyInv_of_nothing hsup }

/-! ### The ends and the start of a call -/

theorem inv_finishCall {s : State} {d : Descriptor} (h : Inv s) (hb : s.busy = true) (hs : stage s d .finish) :
    Inv (finishCall s) where
  config := h.config
  memories := h.memories_cleared
  command := h.command
  busyPhase := iff_of_false Bool.false_ne_true (· rfl)
  oneFlag := ⟨nofun, fun _ => rfl⟩
  errorCode := rfl
  result := hs
  phase := ⟨rfl, rfl, rfl⟩
  supply := supplyInv_of_nothing (h.supply_of_busy hb)

theorem inv_failCall {s : State} (h : Inv s) (hb : s.busy = true) (e : FailKind) : Inv (failCall e s) where
  config := h.config
  memories := h.memories_cleared
  command := h.command
  busyPhase := iff_of_false Bool.false_ne_true (· rfl)
  oneFlag := ⟨nofun, nofun⟩
  errorCode := ⟨e, rfl⟩
  result := fun _ => rfl
  phase := ⟨rfl, rfl, rfl⟩
  supply := supplyInv_of_nothing (h.supply_of_busy hb)

theorem windowBytes_length (s : State) (win : Window) (n : Nat) : (windowBytes s win n).length = n := by
  simp [windowBytes]

/-- What is latched is as long as R249 has it. -/
theorem descOk_latch (op : Op) (s : State) : descOk s.cfg (latch op s) :=
  ⟨windowBytes_length .., windowBytes_length ..⟩

/-- Where a call has started, legal or not, only the phase is left to be looked at. -/
theorem inv_started {s t : State} (h : Inv s)
    (ht : t = { clearInternal (flagsStart s) with
      cmd := none, desc := t.desc, kind := t.kind, supply := .nothing, ph := t.ph })
    (hph : t.ph ≠ 0#5) (hphase : phaseInv t) : Inv t := by
  rw [ht] at hph hphase ⊢
  exact {
    config := h.config
    memories := h.memories_cleared
    command := rfl
    busyPhase := iff_of_true rfl hph
    oneFlag := ⟨fun _ => ⟨rfl, rfl⟩, nofun⟩
    errorCode := rfl
    result := nofun
    phase := hphase
    supply := supplyInv_of_nothing rfl }

/-- A `CMD` write keeps the invariant, whether it is ignored, starts a call or is illegal (R90, R106,
R248). -/
theorem startCall_keeps {s : State} (h : Inv { s with cmd := none }) (op : Option Op) : GoesOn (startCall op s) Inv := by
  cases hb : s.busy with
  | true => exact ⟨_, startCall_of_busy op hb, h⟩
  | false =>
    cases op with
    | none => exact ⟨_, startCall_illegal hb, inv_started h rfl (show 0x17#5 ≠ 0#5 by decide) rfl⟩
    | some op =>
      exact ⟨_, startCall_command op hb, inv_started h rfl (show 0x01#5 ≠ 0#5 by decide)
        ⟨rfl, _, rfl, descOk_latch op s, trivial⟩⟩

theorem commandStep_keeps {s : State} (h : Inv s) (v : BitVec 8) : GoesOn (commandStep v s) Inv := by
  rw [commandStep_eq]
  refine startCall_keeps (s := { s with cmd := some v }) ?_ _
  rw [← h.command]
  exact h

/-- A step of ENGINE goes on and keeps the invariant. -/
theorem engineStep_keeps {s : State} (h : Inv s) : GoesOn (engineStep s) Inv := by
  cases hp : decodePhase s.ph with
  | error e => exact absurd h.phase (not_phaseInv_of_error hp)
  | ok i =>
    rw [engineStep_of_ok hp]
    have ht : Inv (tick s.busy.toNat s) := h.host_fresh s.host _
    cases i with
    | encrypt | decrypt | encBytes | decBytes =>
      obtain ⟨d, -, hs⟩ := ht.inCall hp nofun nofun
      exact hs.elim
    | idle => exact ⟨_, execIdle_none ht.command, ht⟩
    | fail =>
      obtain ⟨e, he⟩ := Option.isSome_iff_exists.1 ((phaseInv_fail_iff hp).1 h.phase)
      exact goesOn_need he (goesOn_next (inv_failCall ht (ht.busy_of_phase hp nofun) e))
    | finish =>
      obtain ⟨d, -, hs⟩ := ht.inCall hp nofun nofun
      exact goesOn_next (inv_finishCall ht (ht.busy_of_phase hp nofun) hs)
    | _ =>
      obtain ⟨d, hc, hs⟩ := ht.inCall hp nofun nofun
      obtain ⟨t, he, hgo⟩ := exec_keeps hc hs nofun
      exact ⟨t, he, ht.of_callGoesOn (ht.busy_of_phase hp nofun) (by decide) he hgo⟩

/-! ### The accesses of HOST -/

/-- One byte written to a window and noted as supplied (log 24). -/
theorem supplied_write {m n : Memory} (k : Nat) (v : Byte)
    (h : ∀ a x, Memory.read n a = some x → Memory.read m a = some x) (a : Nat) (x : Byte) :
    Memory.read (Memory.write n k v) a = some x → Memory.read (Memory.write m k v) a = some x := by
  rw [Memory.read_write, Memory.read_write]
  split
  · exact id
  · exact h a x

theorem hostWriteReg_keeps {s : State} (h : Inv s) (hb : ¬s.busy = true) (r : InReg) (v : BitVec 32) :
    GoesOn (hostWriteReg r v s) Inv := by
  obtain ⟨hsk, hsp, hwIn, hrIn, hklen, hplen, hkey, hpay, -⟩ := h.supply
  have noCall {x : Supply} : s.busy = true → x = .nothing := fun hb' => absurd hb' hb
  refine goesOn_ite (fun hb' => absurd hb' hb) fun _ => ?_
  cases r with
  | wIn =>
    exact goesOn_next <| h.of_host rfl h.keymem_wf h.inmem_wf
      ⟨hsk, hsp, fun _ => Option.some.inj, hrIn, hklen, hplen, hkey, hpay, noCall⟩
  | rIn =>
    exact goesOn_next <| h.of_host rfl h.keymem_wf h.inmem_wf
      ⟨hsk, hsp, hwIn, fun _ => Option.some.inj, hklen, hplen, hkey, hpay, noCall⟩
  | klenIn =>
    exact goesOn_next <| h.of_host rfl h.keymem_wf h.inmem_wf
      ⟨hsk, hsp, hwIn, hrIn, fun _ => Option.some.inj, hplen, hkey, hpay, noCall⟩
  | plenIn =>
    exact goesOn_next <| h.of_host rfl h.keymem_wf h.inmem_wf
      ⟨hsk, hsp, hwIn, hrIn, hklen, fun _ => Option.some.inj, hkey, hpay, noCall⟩

theorem hostWriteKeymem_keeps {s : State} (h : Inv s) (hb : ¬s.busy = true) {k : Nat}
    (hk : fits (windowCap s.cfg .keymem) (k + 1) = true) (v : Byte) : GoesOn (hostWriteKeymem k v s) Inv := by
  obtain ⟨hsk, hsp, hwIn, hrIn, hklen, hplen, hkey, hpay, -⟩ := h.supply
  exact goesOn_ite (fun hb' => absurd hb' hb) fun _ => goesOn_inSpace hk <| goesOn_next <|
    h.of_host rfl (Memory.wf_write k v h.keymem_wf) h.inmem_wf
      ⟨Memory.wf_write k v hsk, hsp, hwIn, hrIn, hklen, hplen, supplied_write k v hkey, hpay,
        fun hb' => absurd hb' hb⟩

theorem hostWriteInmem_keeps {s : State} (h : Inv s) (hb : ¬s.busy = true) {k : Nat}
    (hk : fits (windowCap s.cfg .inmem) (k + 1) = true) (v : Byte) : GoesOn (hostWriteInmem k v s) Inv := by
  obtain ⟨hsk, hsp, hwIn, hrIn, hklen, hplen, hkey, hpay, -⟩ := h.supply
  exact goesOn_ite (fun hb' => absurd hb' hb) fun _ => goesOn_inSpace hk <| goesOn_next <|
    h.of_host rfl h.keymem_wf (Memory.wf_write k v h.inmem_wf)
      ⟨hsk, Memory.wf_write k v hsp, hwIn, hrIn, hklen, hplen, hkey, supplied_write k v hpay,
        fun hb' => absurd hb' hb⟩

theorem hostReadReg_keeps {s : State} (h : Inv s) (r : HostReg) : GoesOn (hostReadReg r s) Inv :=
  goesOn_ite (fun _ => goesOn_next (h.answered _)) fun _ => goesOn_next (h.answered _)

theorem hostReadOutmem_keeps {s : State} (h : Inv s) {k : Nat} (hk : fits (windowCap s.cfg .outmem) (k + 1) = true) :
    GoesOn (hostReadOutmem k s) Inv := by
  refine goesOn_inSpace hk <| goesOn_ite (fun _ => goesOn_next (h.answered _)) fun _ => ?_
  cases s.outmem.read k with
  | some v => exact goesOn_next (h.answered _)
  | none => exact goesOn_next (h.answered _)

/-- A move that ENGINE can take goes on and keeps the invariant. -/
theorem moveStep_keeps {s : State} {m : HostMove} (h : Inv s) (hm : MoveLegal s m) : GoesOn (moveStep m s) Inv := by
  obtain ⟨hwf, hbusy⟩ := hm
  cases m with
  | run => exact engineStep_keeps h
  | reset => exact goesOn_next ((inv_reset h.config).of_host rfl rfl rfl (supplyInv_of_nothing rfl))
  | writeCmd v => exact commandStep_keeps (h.host_fresh s.host (s.fresh + 1)) v
  | writeReg r v => exact hostWriteReg_keeps h hbusy r v
  | readReg r => exact hostReadReg_keeps h r
  | writeKeymem k v => exact hostWriteKeymem_keeps h hbusy hwf v
  | writeInmem k v => exact hostWriteInmem_keeps h hbusy hwf v
  | readOutmem k => exact hostReadOutmem_keeps h hwf

/-- Where HOST's next move is one ENGINE can take, the step goes on and keeps the invariant. -/
theorem step_keeps {s : State} (h : Inv s) (hm : ∀ m rest, s.host = m :: rest → MoveLegal s m) :
    GoesOn (step s) Inv := by
  cases hh : s.host with
  | nil => exact step_of_host_nil hh ▸ engineStep_keeps h
  | cons m rest =>
    rw [step_of_host_cons hh]
    exact moveStep_keeps (h.host_fresh rest s.fresh) (hm m rest hh)

/-- A move that goes on is one ENGINE can take. -/
theorem moveLegal_of_next (m : HostMove) (s : State) : Ensures (moveStep m s) fun _ => MoveLegal s m := by
  cases m with
  | run | reset | writeCmd _ | readReg _ => exact fun _ _ => ⟨rfl, fun _ => trivial⟩
  | writeReg r v => exact ensures_ite (fun _ => ensures_refused) fun hb _ _ => ⟨rfl, hb⟩
  | writeKeymem k v | writeInmem k v =>
    exact ensures_ite (fun _ => ensures_refused) fun hb => ensures_inSpace fun hk _ _ => ⟨hk, hb⟩
  | readOutmem k => exact ensures_inSpace fun hk _ _ => ⟨hk, fun _ => trivial⟩

/-- Settles O49: in a call by the stages of its micro-operations, else by the accesses of HOST. -/
theorem noStepFaults : Obligations.NoStepFaults := fun _ h hm =>
  (step_keeps h hm).imp fun _ => And.left

/-- Settles O48: a step that goes on was one that ENGINE can take, and such a step keeps the invariant. -/
theorem stepKeepsTheInvariant : Obligations.StepKeepsTheInvariant := by
  intro s t h hst
  refine (step_keeps h fun m rest hh => ?_).ensures t hst
  exact moveLegal_of_next m { s with host := rest } t ((step_of_host_cons hh).symm.trans hst)

end Sys2Proof.Machine
end

section
/-! PROOFS. Nothing of an earlier call reaches a later one (R31, R75, R110, R246): two machines that
differ in the inputs, in what is HOST's and in what an earlier result left in `OUTMEM` go through a call
in step. -/

namespace Sys2Proof.Machine

/-- `s'` is `s` with another past: they differ in the inputs, in what is HOST's and in `OUTMEM` alone,
and there not within `OLEN`; neither has a move of HOST to come. -/
structure Twin (s s' : State) : Prop where
  past   : s' = { hostWritten s s' with outmem := s'.outmem }
  result : ∀ k, k < s.olen.toNat → Memory.read s.outmem k = Memory.read s'.outmem k
  noMove : s.cmd = none ∧ s.host = [] ∧ s'.host = []

/-- If `x` goes on, so does `y`, to a twin. -/
def Follows (x y : Result) : Prop := Ensures x fun t => ∃ t', y = .next t' ∧ Twin t t'

theorem follows_next {t t' : State} (h : Twin t t') : Follows (.next t) (.next t') := by
  rintro _ ⟨⟩
  exact ⟨t', rfl, h⟩

theorem follows_goto {i : Instr} {t t' : State} (h : Twin t t') : Follows (.next (goto i t)) (.next (goto i t')) := by
  obtain ⟨hp, hr, hm⟩ := h
  cases i <;> exact follows_next ⟨by rw [hp]; rfl, hr, hm⟩

theorem follows_need {α : Type} {loc : Loc} {x : Option α} {f g : α → Result} (h : ∀ v, Follows (f v) (g v)) :
    Follows (need loc x f) (need loc x g) := by
  cases x with
  | none => exact ensures_fault
  | some v => exact h v

theorem follows_inSpace {loc : Loc} {ok : Bool} {x y : Result} (h : Follows x y) :
    Follows (inSpace loc ok x) (inSpace loc ok y) := by
  cases ok with
  | false => exact ensures_fault
  | true => exact h

theorem follows_ite {c : Prop} [Decidable c] {x x' y y' : Result} (hx : Follows x x') (hy : Follows y y') :
    Follows (if c then x else y) (if c then x' else y') := by
  split
  · exact hx
  · exact hy

/-- Within a result just written the earlier contents do not matter. -/
theorem read_result (m m' : Memory) (out : List Byte) {k : Nat} (hk : k < out.length) :
    Memory.read (writeBytes m 0 out) k = Memory.read (writeBytes m' 0 out) k := by
  have h := read_writeBytes_inside m 0 k out hk
  rwa [← read_writeBytes_inside m' 0 k out hk, Nat.zero_add] at h

/-- Every instruction but those that take a `CMD` write reads nothing in which twins differ. -/
theorem exec_follows {i : Instr} {s s' : State} (hi : i ∉ takesCommand) (h : Twin s s') :
    Follows (exec i s) (exec i s') := by
  obtain ⟨hp, hr, hm⟩ := h
  rw [hp] at hr hm ⊢
  cases i with
  | encrypt | decrypt | encBytes | decBytes | idle => exact absurd (by decide) hi
  | ksel | kpack | sinit | kmix0 | enc0 | enca | encb | decb | deca | dec0 =>
    repeat refine follows_need fun _ => ?_
    exact follows_goto ⟨rfl, hr, hm⟩
  | pad | blkst =>
    repeat refine follows_need fun _ => ?_
    exact follows_inSpace (follows_goto ⟨rfl, hr, hm⟩)
  | finish => exact follows_next ⟨rfl, hr, hm⟩
  | fail => exact follows_need fun _ => follows_next ⟨rfl, nofun, hm⟩
  | hexenc | storep =>
    refine follows_need fun _ => follows_need fun _ => follows_inSpace (follows_goto ⟨rfl, fun k hk => ?_, hm⟩)
    exact read_result s.outmem s'.outmem _ (lt_of_lt_of_le hk (olenOf_le _))
  | validate =>
    refine follows_need fun d => ?_
    cases wordSizeOf d.wReq.toInt with
    | none => exact follows_next ⟨rfl, hr, hm⟩
    | some w =>
      refine follows_ite (follows_ite ?_ (follows_next ⟨rfl, hr, hm⟩)) (follows_next ⟨rfl, hr, hm⟩)
      exact follows_need fun _ => follows_goto ⟨rfl, hr, hm⟩
  | kmix =>
    repeat refine follows_need fun _ => ?_
    refine follows_ite (follows_goto ⟨rfl, hr, hm⟩) <| follows_need fun _ =>
      follows_ite (follows_goto ⟨rfl, hr, hm⟩) ?_
    exact follows_need fun _ => follows_need fun _ => follows_goto ⟨rfl, hr, hm⟩
  | loadp =>
    refine follows_need fun _ => follows_need fun _ => follows_ite ?_ (follows_next ⟨rfl, hr, hm⟩)
    exact follows_need fun _ => follows_goto ⟨rfl, hr, hm⟩
  | hexdec =>
    refine follows_need fun _ => follows_ite (follows_ite ?_ (follows_next ⟨rfl, hr, hm⟩)) (follows_next ⟨rfl, hr, hm⟩)
    exact follows_need fun _ => follows_need fun _ => follows_goto ⟨rfl, hr, hm⟩
  | lenchk =>
    exact follows_need fun _ => follows_need fun _ =>
      follows_ite (follows_goto ⟨rfl, hr, hm⟩) (follows_next ⟨rfl, hr, hm⟩)
  | blkld =>
    iterate 4 refine follows_need fun _ => ?_
    refine follows_inSpace <| follows_need fun _ => follows_need fun _ => follows_ite (follows_goto ⟨rfl, hr, hm⟩) ?_
    exact follows_need fun _ => follows_goto ⟨rfl, hr, hm⟩
  | unpad =>
    refine follows_need fun _ => follows_need fun _ => follows_ite (follows_goto ⟨rfl, hr, hm⟩) ?_
    exact follows_need fun _ => follows_goto ⟨rfl, hr, hm⟩

/-- ENGINE takes twins to twins. -/
theorem engineStep_follows {s s' : State} (h : Twin s s') : Follows (engineStep s) (engineStep s') := by
  obtain ⟨hp, hr, hm⟩ := id h
  have hph : s'.ph = s.ph := hp ▸ rfl
  have hbusy : s'.busy = s.busy := hp ▸ rfl
  cases hi : decodePhase s.ph with
  | error e => exact engineStep_of_error hi ▸ ensures_fault
  | ok i =>
    have ht : Twin (tick s.busy.toNat s) (tick s'.busy.toNat s') := ⟨by rw [hp]; rfl, hr, hm⟩
    have hcode := phaseCode_of_decodePhase hi
    rw [engineStep_of_ok hi, engineStep_of_ok (hph ▸ hi)]
    cases i with
    | encrypt | decrypt | encBytes | decBytes => cases hcode
    | idle =>
      have hcmd : s'.cmd = none := hp ▸ hm.1
      rw [execIdle_none (s := tick s.busy.toNat s) hm.1, execIdle_none (s := tick s'.busy.toNat s') hcmd]
      exact follows_next ht
    | _ => exact exec_follows (by decide) ht

/-- Runs of twins go in step. -/
theorem reaches_follows {k : Nat} {s s' t : State} (h : Twin s s') (hr : Reaches k s t) :
    ∃ t', Reaches k s' t' ∧ Twin t t' := by
  induction k generalizing s s' with
  | zero =>
    cases hr
    exact ⟨s', rfl, h⟩
  | succ k ih =>
    obtain ⟨u, hu, hut⟩ := reaches_succ.1 hr
    obtain ⟨-, hh, hh'⟩ := h.noMove
    obtain ⟨u', hu', htwin⟩ := engineStep_follows h u ((step_of_host_nil hh).symm.trans hu)
    obtain ⟨t', ht', htt⟩ := ih htwin hut
    exact ⟨t', reaches_succ.2 ⟨u', (step_of_host_nil hh').trans hu', ht'⟩, htt⟩

/-- Twins show HOST the same (R51). -/
theorem Twin.sameOutcome {s s' : State} (h : Twin s s') : SameOutcome s s' := by
  obtain ⟨hp, hr, -⟩ := h
  rw [hp] at hr ⊢
  exact ⟨rfl, rfl, rfl, hr⟩

/-- Two calls with the same descriptor under the same configuration start as twins. -/
theorem startCall_follows {s s' : State} {op : Op} (hb : s.busy = false) (hb' : s'.busy = false) (hcfg : s.cfg = s'.cfg)
    (hlatch : latch op s = latch op s') (hh : s.host = []) (hh' : s'.host = []) :
    Follows (startCall (some op) s) (startCall (some op) s') := by
  rw [startCall_command op hb, startCall_command op hb']
  refine follows_next ⟨?_, nofun, rfl, hh, hh'⟩
  simp only [hostWritten, clearInternal, flagsStart, hcfg, hlatch]

/-- `s` where a write of `CMD` that asks for `op`, HOST's last move, has been made. -/
def commanded (op : Op) (s : State) : State := { s with host := [], cmd := some (commandCode op), fresh := s.fresh + 1 }

theorem step_of_command {s : State} {op : Op} (hh : s.host = [.writeCmd (commandCode op)]) :
    step s = startCall (some op) (commanded op s) := by
  rw [step_of_host_cons hh, ← opOfCommand_commandCode op]
  exact commandStep_eq ..

/-- Settles O54: the two machines are twins from the first step of the call on. -/
theorem nothingCarriesOver : Obligations.NothingCarriesOver := by
  intro s s' op k t _ _ hb hb' hcfg hlatch hh hh' hr
  have hstart : Follows (startCall (some op) (commanded op s)) (startCall (some op) (commanded op s')) :=
    startCall_follows hb hb' hcfg hlatch rfl rfl
  obtain ⟨u, hu, hut⟩ := reaches_succ.1 hr
  obtain ⟨u', hu', htwin⟩ := hstart u ((step_of_command hh).symm.trans hu)
  obtain ⟨t', ht', htt⟩ := reaches_follows htwin hut
  have hph : t'.ph = t.ph := htt.past ▸ rfl
  have hbusy : t'.busy = t.busy := htt.past ▸ rfl
  exact ⟨t', reaches_succ.2 ⟨u', (step_of_command hh').trans hu', ht'⟩, hph.symm, hbusy.symm,
    fun _ => htt.sameOutcome⟩

end Sys2Proof.Machine
end

section
/-! PROOFS. The reset state, the bits of `STATUS`, and the accesses of HOST through the port (R42 to R45,
R50, R51, R68, R248). -/

namespace Sys2Proof.Machine

/-- Settles O1, by evaluating the reset state. -/
theorem resetStateIsIdleAndEmpty : Obligations.ResetStateIsIdleAndEmpty := ⟨rfl, rfl, rfl, rfl, rfl, rfl, rfl⟩

/-- The eight bits of a byte made of three flags (R42). -/
theorem flags_getLsbD (x y z : Bool) :
    let v := BitVec.ofNat 8 (x.toNat + 2 * y.toNat + 4 * z.toNat)
    v.getLsbD 0 = x ∧ v.getLsbD 1 = y ∧ v.getLsbD 2 = z ∧ ∀ k, 3 ≤ k → k < 8 → v.getLsbD k = false := by
  revert x y z
  decide

/-- Settles O58, for each value of the three flags. -/
theorem statusRegisterBits : Obligations.StatusRegisterBits := by
  intro s
  obtain ⟨hbusy, hdone, herr, hrest⟩ := flags_getLsbD s.busy s.done s.err
  refine ⟨hbusy, hdone, herr, fun k hk => ?_, rfl⟩
  rcases Nat.lt_or_ge k 8 with hk8 | hk8
  · exact hrest k hk hk8
  · exact BitVec.getLsbD_of_ge _ _ hk8

/-! ### Writes -/

/-- A byte written reads back, and no other byte has changed. -/
theorem write_sameOutside (m : Memory) (k : Nat) (v : Byte) :
    Memory.read (m.write k v) k = some v ∧ SameOutside m (m.write k v) k 1 :=
  ⟨Memory.read_write_self m k v, fun _ ha => Memory.read_write_other m v (by omega)⟩

/-- A read of a register that is answered with its value (R44). -/
theorem hostReadReg_of_readable {s : State} {r : HostReg} (h : s.busy = false ∨ alwaysReadable r = true) :
    hostReadReg r s = .next { s with rdata := hostRegValue s r } := by
  rw [hostReadReg, if_neg]
  simpa [imp_iff_not_or] using h

theorem hostWriteKeymem_of_idle {s : State} (hb : s.busy = false) (k : Nat) (v : Byte) :
    hostWriteKeymem k v s = inSpace .keymem (decide (k < 255)) (.next
      { s with keymem := s.keymem.write k v, supply := { s.supply with key := s.supply.key.write k v } }) :=
  if_neg (by simp [hb])

theorem hostWriteInmem_of_idle {s : State} (hb : s.busy = false) (k : Nat) (v : Byte) :
    hostWriteInmem k v s = inSpace .inmem (fits (windowCap s.cfg .inmem) (k + 1)) (.next
      { s with inmem := s.inmem.write k v, supply := { s.supply with payload := s.supply.payload.write k v } }) :=
  if_neg (by simp [hb])

/-- A byte of `INMEM` or `OUTMEM` that exists (R45). -/
theorem fits_window {c : Config} {k : Nat} :
    fits (c.bufCap.map (2 * ·)) (k + 1) = true ↔ ∀ cap, c.bufCap = some cap → k < 2 * cap := by
  cases c.bufCap <;> simp [fits]

/-- A write of an input register, and a read of it after that. -/
theorem reaches_write_read {s u : State} {r : InReg} {v : BitVec 32} {q : HostReg} {rest : List HostMove}
    (hh : s.host = .writeReg r v :: .readReg q :: rest)
    (hu : hostWriteReg r v { s with host := .readReg q :: rest } = .next u) (huh : u.host = .readReg q :: rest)
    (hq : alwaysReadable q = true) :
    Reaches 2 s { u with host := rest, rdata := hostRegValue { u with host := rest } q } :=
  reaches_succ.2 ⟨u, (step_of_host_cons hh).trans hu,
    reaches_succ.2 ⟨_, (step_of_host_cons huh).trans (hostReadReg_of_readable (.inr hq)), rfl⟩⟩

/-- Settles O59: outside a call each write does what it stores, inside one it is refused. -/
theorem hostWrites : Obligations.HostWrites := by
  refine fun s rest => ⟨fun v hb => ⟨fun hh => ?_, fun hh => ?_, fun hh => ?_, fun hh => ?_⟩,
    fun k v hb hh => ⟨fun hk => ?_, fun hk => ?_⟩, fun k v hb hh => ⟨fun hk => ?_, fun cap hcap hk => ?_⟩,
    fun m hb hh hm => ?_⟩
  · exact reaches_write_read hh (if_neg (hb ▸ Bool.false_ne_true)) rfl rfl
  · exact reaches_write_read hh (if_neg (hb ▸ Bool.false_ne_true)) rfl rfl
  · exact reaches_write_read hh (if_neg (hb ▸ Bool.false_ne_true)) rfl rfl
  · exact reaches_write_read hh (if_neg (hb ▸ Bool.false_ne_true)) rfl rfl
  · have hw := hostWriteKeymem_of_idle (s := { s with host := rest }) hb k v
    rw [decide_eq_true hk] at hw
    obtain ⟨hm, hmo⟩ := write_sameOutside s.keymem k v
    exact ⟨_, _, (step_of_host_cons hh).trans hw, hm, hmo, write_sameOutside s.supply.key k v⟩
  · have hw := hostWriteKeymem_of_idle (s := { s with host := rest }) hb k v
    rw [decide_eq_false (Nat.not_lt.2 hk)] at hw
    exact (step_of_host_cons hh).trans hw
  · have hw := hostWriteInmem_of_idle (s := { s with host := rest }) hb k v
    rw [show fits (windowCap s.cfg .inmem) (k + 1) = true from fits_window.2 hk] at hw
    obtain ⟨hm, hmo⟩ := write_sameOutside s.inmem k v
    exact ⟨_, _, (step_of_host_cons hh).trans hw, hm, hmo, write_sameOutside s.supply.payload k v⟩
  · have hw := hostWriteInmem_of_idle (s := { s with host := rest }) hb k v
    have hout : fits (windowCap s.cfg .inmem) (k + 1) = false :=
      Bool.eq_false_of_not_eq_true fun hf => absurd (fits_window.1 hf cap hcap) (Nat.not_lt.2 hk)
    rw [hout] at hw
    exact (step_of_host_cons hh).trans hw
  · rw [step_of_host_cons hh]
    obtain ⟨r, v, rfl⟩ | ⟨k, v, rfl⟩ | ⟨k, v, rfl⟩ := hm <;> exact if_pos hb

/-! ### Reads -/

/-- What a read of a register is answered (R44, U15). -/
def regAnswer (r : HostReg) (s : State) : BitVec 32 :=
  if s.busy && !alwaysReadable r then (readAnyValue (.readReg r) (hostRegWidth r) s).rdata else hostRegValue s r

theorem hostReadReg_eq (r : HostReg) (s : State) : hostReadReg r s = .next { s with rdata := regAnswer r s } := by
  unfold hostReadReg regAnswer
  split <;> rfl

theorem step_readReg {s : State} {r : HostReg} {rest : List HostMove} (hh : s.host = .readReg r :: rest) :
    step s = .next { s with host := rest, rdata := regAnswer r s } :=
  (step_of_host_cons hh).trans (hostReadReg_eq r _)

/-- What a read of a byte of `OUTMEM` that exists is answered (R45, U15, U16). -/
def outmemAnswer (k : Nat) (s : State) : BitVec 32 :=
  if s.busy || decide (s.olen.toNat ≤ k) then (readAnyValue (.readOutmem k) 8 s).rdata
  else ((s.outmem.read k).map (BitVec.setWidth 32)).getD (readAnyValue (.readOutmem k) 8 s).rdata

theorem hostReadOutmem_eq (k : Nat) (s : State) :
    hostReadOutmem k s =
      inSpace .outmem (fits (windowCap s.cfg .outmem) (k + 1)) (.next { s with rdata := outmemAnswer k s }) := by
  unfold hostReadOutmem outmemAnswer
  congr 1
  split
  · rfl
  · cases s.outmem.read k <;> rfl

theorem step_readOutmem {s : State} {k : Nat} {rest : List HostMove} (hh : s.host = .readOutmem k :: rest) :
    step s = inSpace .outmem (fits (windowCap s.cfg .outmem) (k + 1))
      (.next { s with host := rest, rdata := outmemAnswer k s }) :=
  (step_of_host_cons hh).trans (hostReadOutmem_eq k _)

/-- A byte of the result is answered with its value (R51). -/
theorem outmemAnswer_of_result {s : State} {k : Nat} {v : Byte} (hb : s.busy = false) (hk : k < s.olen.toNat)
    (hv : s.outmem.read k = some v) : outmemAnswer k s = v.setWidth 32 := by
  rw [outmemAnswer, if_neg (by simpa [hb] using hk), hv]
  rfl

/-- Settles O60: a read is answered by a function of the state that looks at no more than what it reads. -/
theorem hostReads : Obligations.HostReads := by
  refine fun s rest => ⟨fun r hr hh => ?_, fun hb => ⟨fun hh => ?_, fun hh => ?_⟩, fun k v hb hk hv hcap hh => ?_,
    fun m t hh hm hst => ?_⟩
  · rw [step_of_host_cons hh]
    simp only [List.mem_cons, List.not_mem_nil, or_false] at hr
    obtain rfl | rfl | rfl | rfl | rfl | rfl := hr <;> exact hostReadReg_of_readable (.inr rfl)
  · exact (step_of_host_cons hh).trans (hostReadReg_of_readable (.inl hb))
  · exact (step_of_host_cons hh).trans (hostReadReg_of_readable (.inl hb))
  · rw [step_readOutmem hh, outmemAnswer_of_result hb hk hv,
      show fits (windowCap s.cfg .outmem) (k + 1) = true from fits_window.2 hcap, inSpace_true]
  · obtain ⟨r, rfl⟩ | ⟨k, rfl⟩ := hm
    · obtain rfl := Host.Outcome.next.inj ((step_readReg hh).symm.trans hst)
      refine ⟨rfl, fun x rest' => step_readReg rfl, fun hm x rest' w r b p km im sup => ?_⟩
      simp only [List.mem_cons, List.not_mem_nil, or_false, HostMove.readReg.injEq, reduceCtorEq, exists_false] at hm
      obtain rfl | rfl := hm <;> exact step_readReg rfl
    · obtain ⟨hfits, ht⟩ := inSpace_eq_next.1 ((step_readOutmem hh).symm.trans hst)
      obtain rfl := Host.Outcome.next.inj ht
      exact ⟨rfl, fun x rest' => (step_readOutmem rfl).trans (inSpace_eq_next.2 ⟨hfits, rfl⟩),
        fun _ x rest' w r b p km im sup => (step_readOutmem rfl).trans (inSpace_eq_next.2 ⟨hfits, rfl⟩)⟩

end Sys2Proof.Machine
end

section
/-! PROOFS. A read of a place without a value is a fault by the name of that place, the first one in the
order of the meaning (R49, U18). -/

namespace Sys2Proof.Machine

/-! ### Registers -/

/-- Of the registers asked for in order, the first that lacks a value is the fault. -/
theorem need_first {α : Type} {s : State} {loc first : Loc} {locs : List Loc} {x : Option α} {f : α → Result}
    (hx : lacks s loc = x.isNone) (h : (loc :: locs).find? (lacks s) = some first)
    (hf : ∀ v, locs.find? (lacks s) = some first → f v = .fault (.noValue first)) :
    need loc x f = .fault (.noValue first) := by
  cases x with
  | none =>
    rw [List.find?_cons_of_pos (by rw [hx]; rfl)] at h
    cases h
    rfl
  | some v =>
    rw [List.find?_cons_of_neg (by rw [hx]; exact Bool.false_ne_true)] at h
    exact hf v h

/-- An instruction asks for its registers in the order of `operands`. -/
theorem exec_of_lacking {s : State} {i : Instr} {loc : Loc} (h : (operands i).find? (lacks s) = some loc) :
    exec i s = .fault (.noValue loc) := by
  cases i with
  | encrypt | decrypt | encBytes | decBytes | idle | kmix0 | finish => cases h
  | _ =>
    repeat refine need_first rfl h fun _ h => ?_
    cases h

/-- A register that an instruction with all its operands asks for holds a value. -/
theorem need_operand {α : Type} {s : State} {i : Instr} {loc : Loc} {x : Option α} {f : α → Result} {r : Result}
    (h : HasOperands i s) (hi : loc ∈ operands i) (hx : lacks s loc = x.isNone) (hf : ∀ v, f v = r) :
    need loc x f = r := by
  refine need_of_isSome ?_ hf
  rw [← Option.not_isNone, ← hx, h loc hi]
  rfl

/-! ### What was latched -/

theorem validate_of_short_key {s : State} {d : Descriptor} (hd : s.desc = some d)
    (hw : d.wReq.toInt = 16 ∨ d.wReq.toInt = 32 ∨ d.wReq.toInt = 64) (hr0 : 0 ≤ d.rReq.toInt) (hr : d.rReq.toInt ≤ 255)
    (hb : d.bIn.toNat ≤ 255) (hk : d.key.length < d.bIn.toNat) : exec .validate s = .fault (.noValue .keyLatch) := by
  have hsize : ∃ w, wordSizeOf d.wReq.toInt = some w := by
    obtain h | h | h := hw <;> rw [h] <;> exact ⟨_, rfl⟩
  obtain ⟨w, hw⟩ := hsize
  have hrok : roundsOk d.rReq.toInt = true := by simp [roundsOk, hr0, hr]
  have hbok : keyLenOk d.bIn.toNat = true := decide_eq_true hb
  simp only [exec, execValidate, need_of_eq hd, hw, hrok, hbok, if_true, takeExact_of_lt hk, need_none]

/-- The limit of `LOADP` as R102 words it. -/
theorem fits_loadLimit_of_le {c : Config} {w : WordSize} {op : Op} {n : Nat}
    (h : ∀ cap, c.bufCap = some cap →
      n ≤ (if op = .encrypt ∨ op = .encBytes then cap - (2 * w.bits / 8 - 1) else cap)) :
    fits (loadLimit c w op) n = true := by
  refine fits_iff.2 fun lim hlim => ?_
  obtain ⟨cap, hcap, rfl⟩ := Option.map_eq_some_iff.1 hlim
  simpa only [encrypts_eq_true, blockBytes] using h cap hcap

theorem loadp_of_short_payload {s : State} {d : Descriptor} {w : WordSize} (hd : s.desc = some d) (hw : s.w = some w)
    (hfit : fits (loadLimit s.cfg w d.op) d.pIn.toNat = true) (hp : d.payload.length < d.pIn.toNat) :
    exec .loadp s = .fault (.noValue .payload) := by
  simp only [exec, execLoadp, need_of_eq hd, need_of_eq hw, hfit, if_true, takeExact_of_lt hp, need_none]

theorem hexdec_of_short_payload {s : State} {d : Descriptor} (hd : s.desc = some d) (heven : d.pIn.toNat % 2 = 0)
    (hdigits : allDigits s.cfg.hexInCase d.payload = true) (hfit : fits s.cfg.bufCap (d.pIn.toNat / 2) = true)
    (hp : d.payload.length < d.pIn.toNat) : exec .hexdec s = .fault (.noValue .payload) := by
  simp only [exec, execHexdec, need_of_eq hd, heven, hdigits, decide_true, Bool.and_self, hfit, if_true, takeExact_of_lt hp,
    need_none]

/-! ### Arrays -/

/-- A read that finds no value, whatever would be done with it. -/
theorem need_of_none {α : Type} {loc : Loc} {x : Option α} {f : α → Result} (h : x = none) :
    need loc x f = .fault (.noValue loc) := by
  rw [h, need_none]

/-- Two reads of one array of which at least one finds no value. -/
theorem need_need_of_none {α β : Type} {loc : Loc} {x : Option α} {y : Option β} {f : α → β → Result}
    (h : x = none ∨ y = none) : (need loc x fun a => need loc y (f a)) = .fault (.noValue loc) := by
  cases x with
  | none => rfl
  | some a =>
    rw [need_some]
    exact need_of_none (h.resolve_left nofun)

theorem kpack_of_missing_byte {s : State} {b : Nat} (h : HasOperands .kpack s) (hb : s.blen = some b)
    (hk : ¬filled s.key b) : exec .kpack s = .fault (.noValue .key) :=
  need_operand h (by decide) rfl fun _ => (need_of_eq hb).trans <| need_of_none (readBytes_of_not_filled hk)

section Kmix

variable {s : State} {i j : Nat} (h : HasOperands .kmix s) (hi : s.i = some i) (hj : s.j = some j)
include h hi hj

/-- With its registers present `KMIX` comes to `S[I]` and then to `L[J]`. -/
theorem kmix_asks {x : Result}
    (hx : ∀ f : Nat → Nat → Result, (need .sch s.sch[i]? fun si => need .l s.l[j]? (f si)) = x) :
    exec .kmix s = x :=
  need_operand h (by decide) rfl fun _ => need_operand h (by decide) rfl fun _ => need_operand h (by decide) rfl fun _ =>
    need_operand h (by decide) rfl fun _ => need_operand h (by decide) rfl fun _ => (need_of_eq hi).trans <|
    (need_of_eq hj).trans <| need_operand h (by decide) rfl fun _ => hx _

theorem kmix_of_missing_s (hs : s.sch[i]? = none) : exec .kmix s = .fault (.noValue .sch) :=
  kmix_asks h hi hj fun _ => need_of_none hs

theorem kmix_of_missing_l (hs : s.sch[i]?.isSome = true) (hl : s.l[j]? = none) : exec .kmix s = .fault (.noValue .l) :=
  kmix_asks h hi hj fun _ => need_of_isSome hs fun _ => need_of_none hl

/-- After the last iteration `KMIX` does what follows the schedule, which reads nothing that `KMIX` wrote. -/
theorem kmix_last {x : Result} {w : WordSize} {r b n : Nat} (hw : s.w = some w) (hr : s.r = some r) (hb : s.blen = some b)
    (hn : s.n = some n) (hs : s.sch[i]?.isSome = true) (hl : s.l[j]?.isSome = true) (hlast : mixCount w r b ≤ n + 1)
    (hx : ∀ t : State, t.desc = s.desc → t.w = s.w → t.len = s.len → afterSchedule t = x) : exec .kmix s = x :=
  (need_of_eq hw).trans <| (need_of_eq hr).trans <| (need_of_eq hb).trans <| need_operand h (by decide) rfl fun _ =>
    need_operand h (by decide) rfl fun _ => (need_of_eq hi).trans <| (need_of_eq hj).trans <| (need_of_eq hn).trans <|
    need_of_isSome hs fun _ => need_of_isSome hl fun _ => (if_neg (Nat.not_lt.2 hlast)).trans (hx _ rfl rfl rfl)

end Kmix

theorem not_encrypts {op : Op} (h : op = .decrypt ∨ op = .decBytes) : ¬encrypts op = true := by
  rw [encrypts_eq_false.2 h]
  exact Bool.false_ne_true

/-- On the decrypt side what follows the schedule reads `LEN`. -/
theorem afterSchedule_of_missing_len {s : State} {d : Descriptor} {w : WordSize} (hd : s.desc = some d)
    (hop : d.op = .decrypt ∨ d.op = .decBytes) (hw : s.w = some w) (hlen : s.len = none) :
    afterSchedule s = .fault (.noValue .len) :=
  (need_of_eq hd).trans <| (if_neg (not_encrypts hop)).trans <| (need_of_eq hw).trans <| need_of_none hlen

theorem enc0_of_missing_word {s : State} (hs : s.sch[0]? = none ∨ s.sch[1]? = none) (h : HasOperands .enc0 s) :
    exec .enc0 s = .fault (.noValue .sch) :=
  need_operand h (by decide) rfl fun _ => need_operand h (by decide) rfl fun _ => need_operand h (by decide) rfl fun _ =>
    need_operand h (by decide) rfl fun _ => need_need_of_none hs

theorem dec0_of_missing_word {s : State} (hs : s.sch[0]? = none ∨ s.sch[1]? = none) (h : HasOperands .dec0 s) :
    exec .dec0 s = .fault (.noValue .sch) :=
  need_operand h (by decide) rfl fun _ => need_operand h (by decide) rfl fun _ => need_operand h (by decide) rfl fun _ =>
    need_need_of_none hs

section HalfRounds

variable {s : State} {rc : Nat} (hrc : s.rc = some rc)
include hrc

theorem enca_of_missing_word (hs : s.sch[2 * rc]? = none) (h : HasOperands .enca s) :
    exec .enca s = .fault (.noValue .sch) :=
  need_operand h (by decide) rfl fun _ => need_operand h (by decide) rfl fun _ => need_operand h (by decide) rfl fun _ =>
    (need_of_eq hrc).trans <| need_of_none hs

theorem deca_of_missing_word (hs : s.sch[2 * rc]? = none) (h : HasOperands .deca s) :
    exec .deca s = .fault (.noValue .sch) :=
  need_operand h (by decide) rfl fun _ => need_operand h (by decide) rfl fun _ => need_operand h (by decide) rfl fun _ =>
    (need_of_eq hrc).trans <| need_of_none hs

theorem encb_of_missing_word (hs : s.sch[2 * rc + 1]? = none) (h : HasOperands .encb s) :
    exec .encb s = .fault (.noValue .sch) :=
  need_operand h (by decide) rfl fun _ => need_operand h (by decide) rfl fun _ => need_operand h (by decide) rfl fun _ =>
    need_operand h (by decide) rfl fun _ => (need_of_eq hrc).trans <| need_of_none hs

theorem decb_of_missing_word (hs : s.sch[2 * rc + 1]? = none) (h : HasOperands .decb s) :
    exec .decb s = .fault (.noValue .sch) :=
  need_operand h (by decide) rfl fun _ => need_operand h (by decide) rfl fun _ => need_operand h (by decide) rfl fun _ =>
    (need_of_eq hrc).trans <| need_of_none hs

end HalfRounds

/-- `MemRead` of bytes of which one holds no value. -/
theorem memRead_eq_none {m : Memory} {a n k : Nat} (hk : k < n) (h : Memory.read m (a + k) = none) :
    memRead m a n = none := by
  cases hr : readBytes m a n with
  | none => rw [memRead, hr, Option.map_none]
  | some xs =>
    obtain ⟨hl, hx⟩ := readBytes_eq_some.1 hr
    have hxk := hx k hk
    rw [h, List.getElem?_eq_getElem (hl ▸ hk)] at hxk
    cases hxk

theorem memRead_isSome {m : Memory} {a n : Nat} (h : ∀ k, k < n → (Memory.read m (a + k)).isSome = true) :
    (memRead m a n).isSome = true := by
  obtain ⟨xs, hx⟩ := readBytes_isSome h
  rw [memRead, hx]
  rfl

section Blkld

variable {s : State} {d : Descriptor} {w : WordSize} {len blk : Nat} (hd : s.desc = some d) (hw : s.w = some w)
  (hlen : s.len = some len) (hblk : s.blk = some blk) (hin : blk * blockBytes w + blockBytes w ≤ len)
include hd hw hlen hblk hin

theorem blkld_of_missing_byte {k : Nat} (hk : k < blockBytes w) (hbyte : Memory.read s.buf (blk * blockBytes w + k) = none) :
    exec .blkld s = .fault (.noValue .buf) := by
  refine (need_of_eq hd).trans <| (need_of_eq hw).trans <| (need_of_eq hlen).trans <| (need_of_eq hblk).trans <|
    (if_pos (decide_eq_true hin)).trans <| need_need_of_none ?_
  rcases Nat.lt_or_ge k (wordBytes w) with hlow | hhigh
  · exact .inl (memRead_eq_none hlow hbyte)
  · refine .inr (memRead_eq_none (k := k - wordBytes w) (by rw [blockBytes_eq] at hk; omega) ?_)
    rwa [Nat.add_assoc, Nat.add_sub_cancel' hhigh]

theorem blkld_of_missing_rounds
    (hbytes : ∀ k, k < blockBytes w → (Memory.read s.buf (blk * blockBytes w + k)).isSome = true)
    (hop : d.op = .decrypt ∨ d.op = .decBytes) (hr : s.r = none) : exec .blkld s = .fault (.noValue .r) := by
  have hbs := blockBytes_eq w
  exact (need_of_eq hd).trans <| (need_of_eq hw).trans <| (need_of_eq hlen).trans <| (need_of_eq hblk).trans <|
    (if_pos (decide_eq_true hin)).trans <|
    need_of_isSome (memRead_isSome fun k hk => hbytes k (by omega)) fun _ =>
    need_of_isSome (memRead_isSome fun k hk => by rw [Nat.add_assoc]; exact hbytes _ (by omega)) fun _ =>
    (if_neg (not_encrypts hop)).trans <| need_of_none hr

end Blkld

theorem unpad_of_missing_byte {s : State} {len : Nat} (h : HasOperands .unpad s) (hlen : s.len = some len) (hpos : 0 < len)
    (hbyte : Memory.read s.buf (len - 1) = none) : exec .unpad s = .fault (.noValue .buf) :=
  need_operand h (by decide) rfl fun _ => (need_of_eq hlen).trans <| (if_neg hpos.ne').trans <| need_of_none hbyte

theorem hexenc_of_missing_byte {s : State} {len : Nat} (hlen : s.len = some len) (hbuf : ¬filled s.buf len) :
    exec .hexenc s = .fault (.noValue .buf) :=
  (need_of_eq hlen).trans <| need_of_none (readBytes_of_not_filled hbuf)

theorem storep_of_missing_byte {s : State} {len : Nat} (hlen : s.len = some len) (hbuf : ¬filled s.buf len) :
    exec .storep s = .fault (.noValue .buf) :=
  (need_of_eq hlen).trans <| need_of_none (readBytes_of_not_filled hbuf)

/-- Settles O50, clause by clause: each read in the order of the instruction's meaning. -/
theorem unwrittenReadsFault : Obligations.UnwrittenReadsFault := by
  refine fun s => ⟨fun i loc h => exec_of_lacking h,
    fun d hd hw hr0 hr hb hk => validate_of_short_key hd hw hr0 hr hb hk,
    fun d w hd hw hfit hp => loadp_of_short_payload hd hw (fits_loadLimit_of_le hfit) hp,
    fun d hd heven hdigits hfit hp => hexdec_of_short_payload hd heven (List.all_eq_true.2 hdigits) (fits_iff.2 hfit) hp,
    fun b h hb hk => kpack_of_missing_byte h hb hk,
    fun i j h hi hj => ⟨kmix_of_missing_s h hi hj, kmix_of_missing_l h hi hj, fun w r b n hw hr hb hn hs hl hlast => ?_⟩,
    fun hs => ⟨enc0_of_missing_word hs, dec0_of_missing_word hs⟩,
    fun rc hrc => ⟨fun hs => ⟨enca_of_missing_word hrc hs, deca_of_missing_word hrc hs⟩,
      fun hs => ⟨encb_of_missing_word hrc hs, decb_of_missing_word hrc hs⟩⟩,
    fun d w len blk hd hw hlen hblk hin => ⟨fun ⟨k, hk, hbyte⟩ => blkld_of_missing_byte hd hw hlen hblk hin hk hbyte,
      blkld_of_missing_rounds hd hw hlen hblk hin⟩,
    fun len hlen => ⟨fun h => unpad_of_missing_byte h hlen,
      fun hbuf => ⟨hexenc_of_missing_byte hlen hbuf, storep_of_missing_byte hlen hbuf⟩⟩⟩
  refine ⟨fun hd => ?_, fun d hd hop hlen => ?_⟩
  · exact kmix_last h hi hj hw hr hb hn hs hl hlast fun t ht _ _ => need_of_none (ht.trans hd)
  · exact kmix_last h hi hj hw hr hb hn hs hl hlast fun t ht htw htl =>
      afterSchedule_of_missing_len (ht.trans hd) hop (htw.trans hw) (htl.trans hlen)

end Sys2Proof.Machine
end

section
/-! PROOFS. An access outside its space is a fault by the name of that space (R60, R76, R155, log 20). -/

namespace Sys2Proof.Machine

/-- An access known to be outside its space stops there, whatever would be done next. -/
theorem inSpace_of_eq_false {loc : Loc} {ok : Bool} {k : Result} (h : ok = false) :
    inSpace loc ok k = .fault (.outOfRange loc) := by
  rw [h]
  rfl

/-- What is longer than a bounded space does not fit it. -/
theorem fits_of_lt {c : Option Nat} {cap n : Nat} (hc : c = some cap) (h : cap < n) : fits c n = false :=
  Bool.eq_false_of_not_eq_true fun hf => absurd (fits_iff.1 hf cap hc) (Nat.not_le.2 h)

/-- The number of padding bytes as R185 words it. -/
theorem padCount_eq (w : WordSize) (len : Nat) :
    padCount (blockBytes w) len = if len % blockBytes w = 0 then 0 else blockBytes w - len % blockBytes w := by
  rcases Nat.eq_zero_or_pos (len % blockBytes w) with haligned | hrest
  · simp [padCount, haligned]
  · have hmod := Nat.mod_lt len (blockBytes_pos w)
    rw [padCount, if_neg (by omega), if_neg hrest.ne']

/-- A result longer than `OUTMEM`, whose size is twice `BUF_CAP` (R45). -/
theorem deliver_of_no_room {s : State} {cap : Nat} {out : List Byte} (hcap : s.cfg.bufCap = some cap)
    (hout : 2 * cap < out.length) : deliver out s = .fault (.outOfRange .outmem) :=
  inSpace_of_eq_false (fits_of_lt (Option.map_eq_some_iff.2 ⟨cap, hcap, rfl⟩) hout)

section Block

variable {s : State} {d : Descriptor} {w : WordSize} {len blk : Nat} (hd : s.desc = some d) (hw : s.w = some w)
  (hlen : s.len = some len) (hblk : s.blk = some blk) (hout : len < blk * blockBytes w + blockBytes w)
include hd hw hlen hblk hout

theorem blkld_of_outside : exec .blkld s = .fault (.outOfRange .buf) :=
  (need_of_eq hd).trans <| (need_of_eq hw).trans <| (need_of_eq hlen).trans <| (need_of_eq hblk).trans <|
    inSpace_of_eq_false (decide_eq_false (Nat.not_le.2 hout))

theorem blkst_of_outside {a b : Nat} (ha : s.a = some a) (hb : s.b = some b) :
    exec .blkst s = .fault (.outOfRange .buf) :=
  (need_of_eq hd).trans <| (need_of_eq hw).trans <| (need_of_eq hlen).trans <| (need_of_eq hblk).trans <|
    (need_of_eq ha).trans <| (need_of_eq hb).trans <| inSpace_of_eq_false (decide_eq_false (Nat.not_le.2 hout))

end Block

section Bounded

variable {s : State} {len cap : Nat} (hlen : s.len = some len) (hcap : s.cfg.bufCap = some cap)
include hlen hcap

theorem pad_of_no_room {d : Descriptor} {w : WordSize} (hd : s.desc = some d) (hw : s.w = some w)
    (hout : cap < len + padCount (blockBytes w) len) : exec .pad s = .fault (.outOfRange .buf) :=
  (need_of_eq hd).trans <| (need_of_eq hw).trans <| (need_of_eq hlen).trans <| inSpace_of_eq_false (fits_of_lt hcap hout)

theorem hexenc_of_no_room (hbuf : filled s.buf len) (hout : cap < len) :
    exec .hexenc s = .fault (.outOfRange .outmem) := by
  obtain ⟨bytes, hbytes, hl⟩ := readBytes_of_filled hbuf
  exact (need_of_eq hlen).trans <| (need_of_eq hbytes).trans <|
    deliver_of_no_room hcap (by rw [hexEncode_length]; omega)

theorem storep_of_no_room (hbuf : filled s.buf len) (hout : 2 * cap < len) :
    exec .storep s = .fault (.outOfRange .outmem) := by
  obtain ⟨bytes, hbytes, hl⟩ := readBytes_of_filled hbuf
  exact (need_of_eq hlen).trans <| (need_of_eq hbytes).trans <| deliver_of_no_room hcap (hl ▸ hout)

end Bounded

/-- Settles O51: each instruction finds its operands and then meets the check of its space. -/
theorem accessesOutsideFault : Obligations.AccessesOutsideFault := by
  refine fun s d w len hd hw hlen => ⟨fun blk a b hblk ha hb hout => ?_, fun cap hcap hout => ?_,
    fun cap hcap hbuf => ⟨hexenc_of_no_room hlen hcap hbuf, storep_of_no_room hlen hcap hbuf⟩⟩
  · exact ⟨blkld_of_outside hd hw hlen hblk hout, blkst_of_outside hd hw hlen hblk hout ha hb⟩
  · exact pad_of_no_room hlen hcap hd hw (padCount_eq w len ▸ hout)

end Sys2Proof.Machine
end

section
/-! PROOFS. Decoder and encoder are inverse to each other (R81, R83, R93), which codes are no instruction (R90), and the
end of a call that an illegal `CMD` value starts (R90, R215). -/

namespace Sys2Proof.Machine

/-! ### The two tables, each read both ways -/

theorem decodeCommand_commandCode (op : Op) : decodeCommand (commandCode op) = .ok op.instr := by cases op <;> rfl

/-- A `CMD` value that decodes is the code of the operation it names (R81). -/
theorem decodeCommand_eq_ok_iff {v : BitVec 8} {i : Instr} :
    decodeCommand v = .ok i ↔ ∃ op : Op, i = op.instr ∧ v = commandCode op := by
  refine ⟨fun h => ?_, ?_⟩
  · unfold decodeCommand at h
    split at h
    case h_1 hv => exact ⟨.encrypt, (Except.ok.inj h).symm, BitVec.eq_of_toNat_eq hv⟩
    case h_2 hv => exact ⟨.decrypt, (Except.ok.inj h).symm, BitVec.eq_of_toNat_eq hv⟩
    case h_3 hv => exact ⟨.encBytes, (Except.ok.inj h).symm, BitVec.eq_of_toNat_eq hv⟩
    case h_4 hv => exact ⟨.decBytes, (Except.ok.inj h).symm, BitVec.eq_of_toNat_eq hv⟩
    case h_5 => cases h
  · rintro ⟨op, rfl, rfl⟩
    exact decodeCommand_commandCode op

/-- The table of R83, read from either side. -/
theorem decodePhase_eq_ok_iff {p : BitVec 5} {i : Instr} : decodePhase p = .ok i ↔ phaseCode i = some p :=
  ⟨phaseCode_of_decodePhase, fun h => by cases i <;> cases h <;> rfl⟩

/-! ### Decode and encode -/

/-- Every row of the opcode table is a host command or has a phase code. -/
theorem command_or_phase (i : Instr) : (∃ op : Op, i = op.instr) ∨ ∃ p, phaseCode i = some p := by
  cases i with
  | encrypt => exact .inl ⟨.encrypt, rfl⟩
  | decrypt => exact .inl ⟨.decrypt, rfl⟩
  | encBytes => exact .inl ⟨.encBytes, rfl⟩
  | decBytes => exact .inl ⟨.decBytes, rfl⟩
  | _ => exact .inr ⟨_, rfl⟩

theorem encode_instr (op : Op) : encode op.instr = ⟨.command, commandCode op⟩ := by
  rw [encode, commandOp_instr]

theorem encode_of_phaseCode {i : Instr} {p : BitVec 5} (h : phaseCode i = some p) :
    encode i = ⟨.phase, p.setWidth 8⟩ := by
  cases i <;> cases h <;> rfl

/-- A phase code is found again in the byte that holds it. -/
theorem decode_phase (p : BitVec 5) : decode ⟨.phase, p.setWidth 8⟩ = decodePhase p := by
  have hlt : (p.setWidth 8).toNat < 32 := by
    rw [BitVec.toNat_setWidth_of_le (by decide)]
    exact p.isLt
  simp only [decode, if_pos hlt, BitVec.setWidth_setWidth_of_le p (show 5 ≤ 8 by decide), BitVec.setWidth_eq]

theorem decode_encode (i : Instr) : decode (encode i) = .ok i := by
  obtain ⟨op, rfl⟩ | ⟨p, hp⟩ := command_or_phase i
  · rw [encode_instr]
    exact decodeCommand_commandCode op
  · rw [encode_of_phaseCode hp, decode_phase]
    exact decodePhase_eq_ok_iff.2 hp

theorem encode_of_decode {c : Code} {i : Instr} (h : decode c = .ok i) : encode i = c := by
  obtain ⟨format, bits⟩ := c
  cases format with
  | command =>
    obtain ⟨op, rfl, rfl⟩ := decodeCommand_eq_ok_iff.1 h
    exact encode_instr op
  | phase =>
    simp only [decode] at h
    split at h
    case isFalse => cases h
    case isTrue hlt =>
      rw [encode_of_phaseCode (decodePhase_eq_ok_iff.1 h)]
      congr 1
      bv_omega

/-- Settles O4: within each format the table is read both ways. -/
theorem decodeEncodeRoundTrip : Obligations.DecodeEncodeRoundTrip :=
  ⟨fun i _ => decode_encode i, fun _ _ => encode_of_decode⟩

/-- Settles O3, by running the decoder. -/
theorem writtenCodesDecode : Obligations.WrittenCodesDecode := ⟨rfl, rfl, rfl, rfl, rfl, rfl, rfl, rfl⟩

/-! ### Codes that are no instruction -/

/-- The commands are `0x01 .. 0x04` (R90). -/
theorem decodeCommand_isOk_iff {v : BitVec 8} : (∃ i, decodeCommand v = .ok i) ↔ 1 ≤ v.toNat ∧ v.toNat ≤ 4 := by
  refine ⟨?_, fun hv => ?_⟩
  · rintro ⟨i, hi⟩
    obtain ⟨op, -, rfl⟩ := decodeCommand_eq_ok_iff.1 hi
    cases op <;> decide
  · unfold decodeCommand
    split
    case h_5 =>
      simp only [imp_false] at *
      omega
    all_goals exact ⟨_, rfl⟩

/-- The phase codes are `0x00 .. 0x17` (R90). -/
theorem decodePhase_isOk_iff {p : BitVec 5} : (∃ i, decodePhase p = .ok i) ↔ p.toNat < 0x18 := by
  refine ⟨?_, fun hp => ?_⟩
  · rintro ⟨i, hi⟩
    have hcode := decodePhase_eq_ok_iff.1 hi
    cases i <;> cases hcode <;> decide
  · unfold decodePhase
    split
    case h_25 =>
      simp only [imp_false] at *
      omega
    all_goals exact ⟨_, rfl⟩

/-- ENGINE has no step in a reserved phase (U14). -/
theorem engineStep_of_reserved {s : State} (h : 0x18 ≤ s.ph.toNat) : engineStep s = .fault (.reservedPhase s.ph) := by
  cases hp : decodePhase s.ph with
  | ok i => exact absurd (decodePhase_isOk_iff.1 ⟨i, hp⟩) (Nat.not_lt.2 h)
  | error e => exact engineStep_of_error hp

/-- Settles O5, from the ranges of the two tables. -/
theorem illegalAndReservedCodes : Obligations.IllegalAndReservedCodes :=
  ⟨fun _ => decodeCommand_isOk_iff, fun _ => decodePhase_isOk_iff,
    fun _ hh hp => (step_of_host_nil hh).trans (engineStep_of_reserved hp)⟩

/-! ### A call started by an illegal value -/

/-- A value that is no command asks for no operation (R90). -/
theorem opOfCommand_of_illegal {v : BitVec 8} (hv : v.toNat = 0 ∨ 4 < v.toNat) : opOfCommand v = none := by
  cases h : decodeCommand v with
  | ok i =>
    have hlegal := decodeCommand_isOk_iff.1 ⟨i, h⟩
    omega
  | error e => simp only [opOfCommand, h]

/-- While no call is in progress, an illegal value takes the engine to `FAIL` with `E_ARG` (R90). -/
theorem step_of_illegal {s : State} {v : BitVec 8} (hb : s.busy = false) (hv : v.toNat = 0 ∨ 4 < v.toNat)
    (hh : s.host = [.writeCmd v]) :
    ∃ u, step s = .next u ∧ u.ph = 0x17#5 ∧ u.kind = some .arg ∧ u.host = [] := by
  have hstep := (step_of_host_cons hh).trans (commandStep_eq v _)
  rw [opOfCommand_of_illegal hv] at hstep
  exact ⟨_, hstep.trans (startCall_illegal hb), rfl, rfl, rfl⟩

/-- In the phase `FAIL` the next step of ENGINE ends the call with the kind handed over (R215). -/
theorem step_of_fail {s : State} {e : FailKind} (hp : s.ph = 0x17#5) (hk : s.kind = some e) (hh : s.host = []) :
    step s = .next (failCall e (tick s.busy.toNat s)) := by
  have hdec : decodePhase s.ph = .ok .fail := by
    rw [hp]
    rfl
  rw [step_of_host_nil hh, engineStep_of_ok hdec]
  exact need_of_eq hk

/-- A failed call ends as R51 and R215 say. -/
theorem endsWith_failCall (e : FailKind) (s : State) : EndsWith (failCall e s) (.error e) := ⟨rfl, rfl, rfl⟩

/-- Settles O8: the first step goes to `FAIL`, the second ends the call. -/
theorem illegalCommandEndsWithArg : Obligations.IllegalCommandEndsWithArg := by
  intro s v hb hv hh
  obtain ⟨u, hu, hp, hk, hhost⟩ := step_of_illegal hb hv hh
  have hend := step_of_fail hp hk hhost
  exact ⟨_, reaches_succ.2 ⟨u, hu, reaches_succ.2 ⟨_, hend, rfl⟩⟩, endsWith_failCall .arg _, ⟨rfl, rfl⟩,
    clearInternal_failCall .arg _, rfl⟩

end Sys2Proof.Machine
end

section
/-! PROOFS. The bytes of a memory as a list: what reading and writing a list of bytes does to the list a memory holds. -/

namespace Sys2Proof.Machine

/-- The bytes of `m` from 0 on are those of `xs`. -/
def holds (m : Memory) (xs : List Byte) : Prop := readBytes m 0 xs.length = some xs

theorem holds_iff {m : Memory} {xs : List Byte} : holds m xs ↔ ∀ k, k < xs.length → Memory.read m k = xs[k]? := by
  simp [holds, readBytes_eq_some]

theorem holds_writeBytes (m : Memory) (xs : List Byte) : holds (writeBytes m 0 xs) xs :=
  holds_iff.2 fun k hk => by rw [← read_writeBytes_inside m 0 k xs hk, Nat.zero_add]

theorem holds.take {m : Memory} {xs : List Byte} (h : holds m xs) (n : Nat) : holds m (xs.take n) :=
  holds_iff.2 fun k hk => by
    rw [List.length_take] at hk
    rw [holds_iff.1 h k (by omega), List.getElem?_take_of_lt (by omega)]

/-- Bytes written over as many others inside a list. -/
theorem holds.replace {m : Memory} {pre mid mid' post : List Byte} (h : holds m (pre ++ (mid ++ post)))
    (hlen : mid'.length = mid.length) : holds (writeBytes m pre.length mid') (pre ++ (mid' ++ post)) := by
  refine holds_iff.2 fun k hk => ?_
  simp only [List.length_append] at hk
  have hread : k < pre.length ∨ pre.length + mid'.length ≤ k →
      Memory.read (writeBytes m pre.length mid') k = (pre ++ (mid ++ post))[k]? := fun hout => by
    rw [read_writeBytes_outside _ _ _ _ hout]
    exact holds_iff.1 h k (by simp only [List.length_append]; omega)
  rcases Nat.lt_or_ge k pre.length with hpre | hpre
  · rw [hread (.inl hpre), List.getElem?_append_left hpre, List.getElem?_append_left hpre]
  obtain ⟨j, rfl⟩ := Nat.exists_eq_add_of_le hpre
  rcases Nat.lt_or_ge j mid'.length with hmid | hmid
  · rw [read_writeBytes_inside _ _ _ _ hmid, List.getElem?_append_right hpre, Nat.add_sub_cancel_left,
      List.getElem?_append_left hmid]
  · rw [hread (.inr (by omega)), List.getElem?_append_right hpre, List.getElem?_append_right hpre, Nat.add_sub_cancel_left,
      List.getElem?_append_right hmid, List.getElem?_append_right (hlen ▸ hmid), hlen]

theorem holds.append {m : Memory} {xs : List Byte} (h : holds m xs) (ys : List Byte) :
    holds (writeBytes m xs.length ys) (xs ++ ys) := by
  refine holds_iff.2 fun k hk => ?_
  rcases Nat.lt_or_ge k xs.length with hlow | hhigh
  · rw [read_writeBytes_outside _ _ _ _ (.inl hlow), holds_iff.1 h k hlow, List.getElem?_append_left hlow]
  · obtain ⟨j, rfl⟩ := Nat.exists_eq_add_of_le hhigh
    rw [List.length_append] at hk
    rw [read_writeBytes_inside _ _ _ _ (by omega), List.getElem?_append_right hhigh, Nat.add_sub_cancel_left]

theorem writeBytes_append (m : Memory) (a : Nat) (xs ys : List Byte) :
    writeBytes m a (xs ++ ys) = writeBytes (writeBytes m a xs) (a + xs.length) ys := by
  induction xs generalizing m a with
  | nil => rfl
  | cons x xs ih =>
    rw [List.cons_append, writeBytes, writeBytes, ih, List.length_cons, Nat.add_assoc, Nat.add_comm 1]

/-- `MemRead` inside a list of bytes. -/
theorem holds.memRead {m : Memory} {xs : List Byte} (h : holds m xs) {a n : Nat} (hle : a + n ≤ xs.length) :
    memRead m a n = some (leWord ((xs.drop a).take n)) := by
  have hbytes : readBytes m a n = some ((xs.drop a).take n) := by
    refine readBytes_eq_some.2 ⟨by simp only [List.length_take, List.length_drop]; omega, fun k hk => ?_⟩
    rw [holds_iff.1 h _ (by omega), List.getElem?_take_of_lt hk, List.getElem?_drop]
  rw [Machine.memRead, hbytes, Option.map_some]

end Sys2Proof.Machine
end

section
/-! PROOFS. The micro-operations of the command layer (R102, R103, R107) and the start of a call (R106), each by its whole next
state. -/

namespace Sys2Proof.Machine

/-- Settles O7: a command and `IDLE` on its `CMD` value start the same call. -/
theorem commandStartsTheCall : Obligations.CommandStartsTheCall := by
  refine ⟨fun s h => execIdle_none h, fun s op hb => ⟨?_, ?_⟩⟩
  · exact (exec_instr op s).trans (startCall_command op hb)
  · rw [execIdle_some rfl, opOfCommand_commandCode]
    exact startCall_command op hb

/-- Settles O21, by the two branches of `LENCHK`. -/
theorem lenchkChecksAlignment : Obligations.LenchkChecksAlignment := by
  refine fun s w len hw hlen => ⟨fun h => ?_, fun h => ?_⟩
  · exact (need_of_eq hw).trans <| (need_of_eq hlen).trans <| if_neg h
  · exact (need_of_eq hw).trans <| (need_of_eq hlen).trans <| if_pos h

theorem storep_eq {s : State} {xs : List Byte} (hlen : s.len = some xs.length) (hbuf : holds s.buf xs)
    (hroom : fits (windowCap s.cfg .outmem) xs.length = true) :
    exec .storep s = .next { s with outmem := writeBytes s.outmem 0 xs, olen := olenOf xs.length, ph := 0x16#5 } :=
  (need_of_eq hlen).trans <| (need_of_eq hbuf).trans <| if_pos hroom

/-- A list of bytes written at 0 is there, and no other byte has changed. -/
theorem writeBytes_zero (m : Memory) (xs : List Byte) :
    SameOutside m (writeBytes m 0 xs) 0 xs.length ∧ ∀ k, k < xs.length → Memory.read (writeBytes m 0 xs) k = xs[k]? :=
  ⟨fun k hk => read_writeBytes_outside m 0 k xs hk, holds_iff.1 (holds_writeBytes m xs)⟩

/-- Settles O35: what is in the buffer fits `OUTMEM`, which is twice as large (R45). -/
theorem storepCopiesTheBuffer : Obligations.StorepCopiesTheBuffer := by
  intro s len hlen hbuf hcap
  obtain ⟨xs, hxs, rfl⟩ := readBytes_of_filled hbuf
  have hroom : fits (windowCap s.cfg .outmem) xs.length = true := fits_mono (fits_outmem (fits_iff.2 hcap)) (by omega)
  obtain ⟨hout, hin⟩ := writeBytes_zero s.outmem xs
  exact ⟨_, _, storep_eq hlen hxs hroom, olenOf_toNat, hout, fun k hk => (hin k hk).trans (holds_iff.1 hxs k hk).symm⟩

theorem decide_encrypts (op : Op) : decide (op = .encrypt ∨ op = .encBytes) = encrypts op := by cases op <;> rfl

theorem loadp_of_unfit {s : State} {d : Descriptor} {w : WordSize} (hd : s.desc = some d) (hw : s.w = some w)
    (hfit : ¬fits (loadLimit s.cfg w d.op) d.pIn.toNat = true) :
    exec .loadp s = .next { s with kind := some .arg, ph := 0x17#5 } :=
  (need_of_eq hd).trans <| (need_of_eq hw).trans <| if_neg hfit

theorem loadp_of_fits {s : State} {d : Descriptor} {w : WordSize} (hd : s.desc = some d) (hw : s.w = some w)
    (hfit : fits (loadLimit s.cfg w d.op) d.pIn.toNat = true) (hlen : d.payload.length = d.pIn.toNat) :
    exec .loadp s = .next { s with
      buf := writeBytes s.buf 0 d.payload, len := some d.pIn.toNat, ph := if encrypts d.op then 0x02#5 else 0x09#5 } := by
  refine (need_of_eq hd).trans <| (need_of_eq hw).trans <| (if_pos hfit).trans <| (need_of_eq (takeExact_of_length hlen)).trans ?_
  rw [afterLoad]
  cases encrypts d.op <;> rfl

/-- Settles O19, by the limit of R102; a payload within it has been latched whole. -/
theorem loadpLoadsOrRefuses : Obligations.LoadpLoadsOrRefuses := by
  intro s d w hd hw hlatched
  refine ⟨fun cap hcap hbig => loadp_of_unfit hd hw fun hfit => ?_, fun hle => ?_⟩
  · rw [decide_encrypts] at hbig
    rw [loadLimit, hcap] at hfit
    exact absurd (of_decide_eq_true hfit) (Nat.not_le.2 hbig)
  · have hfit : fits (loadLimit s.cfg w d.op) d.pIn.toNat = true :=
      fits_loadLimit_of_le fun cap hcap => by simpa only [decide_eq_true_eq] using hle cap hcap
    have hlen : d.payload.length = d.pIn.toNat := hlatched.trans <| payloadFit_eq fun cap hcap => by
      have hlimit := hle cap hcap
      split at hlimit <;> omega
    obtain ⟨hout, hin⟩ := writeBytes_zero s.buf d.payload
    rw [hlen] at hout hin
    rw [decide_encrypts]
    exact ⟨_, loadp_of_fits hd hw hfit hlen, hin, hout⟩

end Sys2Proof.Machine
end

section
/-! PROOFS. A call from one micro-operation to its end, backwards from `FINISH` and `FAIL`: where the call is at a
micro-operation with given values in the registers, it ends with the outcome that the composites of R100 to R105 give for them. -/

namespace Sys2Proof.Machine

variable {s : State} {c : Config} {d : Descriptor} {w : WordSize} {r : Nat} {xs : List Byte} {sch : List Nat}

/-! ### The end of a call -/

/-- From `s` the machine comes to rest, no move of HOST left, in an end state of `out` (R51). -/
def Ends (s : State) (out : Except FailKind (List Byte)) : Prop :=
  ∃ k t, Reaches k s t ∧ Quiescent t ∧ t.host = [] ∧ EndsWith t out

/-- A call that ends from wherever its next micro-operation leads ends from here. -/
theorem ends_of_exec {out : Except FailKind (List Byte)} {i : Instr} (hi : decodePhase s.ph = .ok i) (hh : s.host = [])
    (hx : GoesOn (exec i (tick s.busy.toNat s)) (Ends · out)) : Ends s out := by
  obtain ⟨u, hu, k, t, hr, hend⟩ := hx
  exact ⟨k + 1, t, reaches_succ.2 ⟨u, ((step_of_host_nil hh).trans (engineStep_of_ok hi)).trans hu, hr⟩, hend⟩

/-- `goto` changes `PH` alone, to the code of a micro-operation. -/
theorem goesOn_goto {P : State → Prop} {i : Instr} (hi : (phaseCode i).isSome = true)
    (h : ∀ p, decodePhase p = .ok i → P { s with ph := p }) : GoesOn (.next (goto i s)) P := by
  obtain ⟨p, hp⟩ := Option.isSome_iff_exists.1 hi
  have hgoto : goto i s = { s with ph := p } := by rw [goto, hp]
  exact goesOn_next (hgoto ▸ h p (decodePhase_eq_ok_iff.2 hp))

/-- At `FAIL` a call ends with the kind handed over (R215). -/
theorem ends_fail {e : FailKind} (hi : decodePhase s.ph = .ok .fail) (hk : s.kind = some e) (hh : s.host = []) :
    Ends s (.error e) :=
  ends_of_exec hi hh <| goesOn_need hk <| goesOn_next ⟨0, _, rfl, ⟨rfl, rfl⟩, hh, endsWith_failCall e _⟩

theorem goesOn_raise (e : FailKind) (hh : s.host = []) : GoesOn (raise e s) (Ends · (.error e)) :=
  goesOn_next (ends_fail rfl rfl hh)

/-- A result within `OUTMEM` is delivered, and `FINISH` ends the call with it (R107, R195, R218). -/
theorem goesOn_deliver {out : List Byte} (hh : s.host = []) (hfits : fits (windowCap s.cfg .outmem) out.length = true) :
    GoesOn (deliver out s) (Ends · (.ok out)) :=
  goesOn_inSpace hfits <| goesOn_next <| ends_of_exec (i := .finish) rfl hh <| goesOn_next
    ⟨0, _, rfl, ⟨rfl, rfl⟩, hh, rfl, rfl, olenOf_toNat, holds_iff.1 (holds_writeBytes s.outmem out)⟩

/-! ### What the registers hold -/

/-- The call of `d` under `c` has come to the micro-operation `i`, and HOST makes no further move. -/
structure At (s : State) (c : Config) (d : Descriptor) (i : Instr) : Prop where
  next : decodePhase s.ph = .ok i
  host : s.host = []
  cfg  : s.cfg = c
  desc : s.desc = some d

/-- `VALIDATE` has accepted the descriptor: the registers it writes (R120). -/
structure Accepted (s : State) (c : Config) (d : Descriptor) (w : WordSize) (r : Nat) (i : Instr) : Prop extends
    At s c d i where
  w_eq    : s.w = some w
  r_eq    : s.r = some r
  blen_eq : s.blen = some d.key.length
  key     : holds s.key d.key

/-- The bytes of `xs` are in the buffer and fit it (R39). -/
structure Loaded (s : State) (c : Config) (d : Descriptor) (w : WordSize) (r : Nat) (xs : List Byte) (i : Instr) : Prop
    extends Accepted s c d w r i where
  len_eq : s.len = some xs.length
  buf    : holds s.buf xs
  room   : fits s.cfg.bufCap xs.length = true

/-- The schedule is `sch` (R35). -/
structure Scheduled (s : State) (c : Config) (d : Descriptor) (w : WordSize) (r : Nat) (sch : List Nat) (xs : List Byte)
    (i : Instr) : Prop extends Loaded s c d w r xs i where
  sch_eq     : s.sch = sch
  sch_length : sch.length = scheduleLength r

theorem At.ends {out : Except FailKind (List Byte)} {i : Instr} (h : At s c d i)
    (hx : GoesOn (exec i (tick s.busy.toNat s)) (Ends · out)) : Ends s out :=
  ends_of_exec h.next h.host hx

/-- A word of the schedule, as the composites read it. -/
theorem Scheduled.word {i : Instr} (h : Scheduled s c d w r sch xs i) {k : Nat} (hk : k < scheduleLength r) :
    s.sch[k]? = some (sch.getD k 0) := by
  have hk' : k < sch.length := h.sch_length ▸ hk
  rw [h.sch_eq, List.getElem?_eq_getElem hk', List.getD_eq_getElem _ _ hk']

/-! ### The result (R100, R101, R104, R105) -/

/-- What the call of `op` makes of the buffer after its last block. -/
def resultOf (op : Op) (w : WordSize) (xs : List Byte) : List Byte :=
  match op with
  | .encrypt => hexEncode xs
  | .encBytes => xs
  | .decrypt | .decBytes => unpadBytes (blockBytes w) xs

theorem ends_storep (h : Loaded s c d w r xs .storep) : Ends s (.ok xs) :=
  h.ends <| goesOn_need h.len_eq <| goesOn_need h.buf <| goesOn_deliver h.host <|
    fits_mono (fits_outmem h.room) (by omega)

theorem ends_hexenc (h : Loaded s c d w r xs .hexenc) : Ends s (.ok (hexEncode xs)) := by
  refine h.ends <| goesOn_need h.len_eq <| goesOn_need h.buf <| goesOn_deliver h.host ?_
  rw [hexEncode_length]
  exact fits_outmem h.room

/-- `UNPAD` leaves a first part of the buffer (R188), which is the result. -/
theorem ends_stripped {i : Instr} (h : Loaded s c d w r xs i) (n : Nat) :
    Ends (goto .storep { s with len := some (xs.length - n) }) (.ok (xs.take (xs.length - n))) :=
  ends_storep { h with
    next := rfl
    len_eq := congrArg some (List.length_take_of_le (Nat.sub_le _ _)).symm
    buf := h.buf.take _
    room := fits_mono h.room (List.length_take_le' _ _) }

theorem ends_unpad (h : Loaded s c d w r xs .unpad) : Ends s (.ok (unpadBytes (blockBytes w) xs)) := by
  refine h.ends <| goesOn_need h.w_eq <| goesOn_need h.len_eq <| goesOn_ite (fun hlen => ?_) fun hlen => ?_
  · obtain rfl := List.eq_nil_of_length_eq_zero hlen
    exact goesOn_next (ends_storep { h with next := rfl })
  · cases hq : xs.getLast? with
    | none => exact absurd (congrArg List.length (List.getLast?_eq_none_iff.1 hq)) hlen
    | some q =>
      have hlast : Memory.read s.buf (xs.length - 1) = some q := by
        rw [holds_iff.1 h.buf _ (by omega), ← List.getLast?_eq_getElem?, hq]
      rw [unpadBytes, hq]
      exact goesOn_need hlast <| goesOn_next (ends_stripped (s := tick s.busy.toNat s) { h with } _)

theorem ends_afterBlocks (h : Loaded s c d w r xs (afterBlocks d.op)) : Ends s (.ok (resultOf d.op w xs)) := by
  generalize d.op = op at h
  cases op with
  | encrypt => exact ends_hexenc h
  | encBytes => exact ends_storep h
  | decrypt | decBytes => exact ends_unpad h

end Sys2Proof.Machine
end

section
/-! PROOFS. The block loop of a call: in each pass the micro-operations do to the two words of the block what the transform of
the direction does, and the passes together transform every block (R160, R163, R173, R176). -/

namespace Sys2Proof.Machine

variable {s : State} {c : Config} {d : Descriptor} {w : WordSize} {r : Nat} {xs : List Byte} {sch : List Nat}
  {out : Except FailKind (List Byte)}

/-- Block `blk` of `xs` is at its turn (R163, R176). -/
structure InBlock (s : State) (c : Config) (d : Descriptor) (w : WordSize) (r : Nat) (sch : List Nat) (xs : List Byte)
    (blk : Nat) (i : Instr) : Prop extends Scheduled s c d w r sch xs i where
  blk_eq : s.blk = some blk
  inside : blk * blockBytes w + blockBytes w ≤ xs.length

/-- `A` and `B` hold the two words of `x` (R37). -/
structure HasWords (s : State) (x : Nat × Nat) : Prop where
  a_eq : s.a = some x.1
  b_eq : s.b = some x.2

variable {blk : Nat} {x : Nat × Nat}

/-! ### The rounds of a block -/

/-- The indices of the words that round `i` reads are below `t` (R35). -/
theorem round_word_lt {i : Nat} (hi : i ≤ r) : 2 * i + 1 < scheduleLength r := by
  rw [scheduleLength]
  omega

/-- `ENCA` and `ENCB` are a round of encryption (R160). -/
theorem ends_enc_round {i : Nat} (h : InBlock s c d w r sch xs blk .enca) (hw : HasWords s x) (hrc : s.rc = some i) (hi : i ≤ r)
    (hend : ∀ t, InBlock t c d w r sch xs blk (if i + 1 ≤ r then .enca else .blkst) → HasWords t (encRound w sch i x) →
      t.rc = some (i + 1) → Ends t out) : Ends s out := by
  have hlt := round_word_lt hi
  refine h.ends <| goesOn_need h.w_eq <| goesOn_need hw.a_eq <| goesOn_need hw.b_eq <| goesOn_need hrc <|
    goesOn_need (h.word (by omega)) <| goesOn_next <| ends_of_exec (i := .encb) rfl h.host ?_
  refine goesOn_need h.w_eq <| goesOn_need h.r_eq <| goesOn_need rfl <| goesOn_need hw.b_eq <| goesOn_need hrc <|
    goesOn_need (h.word hlt) <| goesOn_goto (by split <;> rfl) fun p hp => ?_
  exact hend _ { h with next := hp } ⟨rfl, rfl⟩ rfl

/-- `DECB` and `DECA` are a round of decryption (R173). -/
theorem ends_dec_round {i : Nat} (h : InBlock s c d w r sch xs blk .decb) (hw : HasWords s x) (hrc : s.rc = some (i + 1))
    (hi : i + 1 ≤ r)
    (hend : ∀ t, InBlock t c d w r sch xs blk (if i = 0 then .dec0 else .decb) → HasWords t (decRound w sch (i + 1) x) →
      t.rc = some i → Ends t out) : Ends s out := by
  have hlt := round_word_lt hi
  refine h.ends <| goesOn_need h.w_eq <| goesOn_need hw.a_eq <| goesOn_need hw.b_eq <| goesOn_need hrc <|
    goesOn_need (h.word hlt) <| goesOn_next <| ends_of_exec (i := .deca) rfl h.host ?_
  refine goesOn_need h.w_eq <| goesOn_need hw.a_eq <| goesOn_need rfl <| goesOn_need hrc <|
    goesOn_need (h.word (by omega)) <| goesOn_next ?_
  cases i with
  | zero => exact hend _ { h with next := rfl } ⟨rfl, rfl⟩ rfl
  | succ i => exact hend _ { h with next := rfl } ⟨rfl, rfl⟩ rfl

/-- The rounds left after `i` of them lead to `BLKST` with the words of all `R` (R157, R158, R160). -/
theorem ends_enc_rounds {i n : Nat} (hn : i + n = r)
    (h : InBlock s c d w r sch xs blk (if i + 1 ≤ r then .enca else .blkst)) (hw : HasWords s (encRounds w sch i x))
    (hrc : s.rc = some (i + 1))
    (hend : ∀ t, InBlock t c d w r sch xs blk .blkst → HasWords t (encRounds w sch r x) → Ends t out) : Ends s out := by
  induction n generalizing s i with
  | zero =>
    subst hn
    rw [if_neg (by omega)] at h
    exact hend s h hw
  | succ n ih =>
    rw [if_pos (by omega)] at h
    exact ends_enc_round h hw hrc (by omega) fun t ht hwt hrct => ih (by omega) ht hwt hrct

/-- The rounds `i .. 1` lead to `DEC0` (R170, R171, R173). -/
theorem ends_dec_rounds {i : Nat} (hi : i ≤ r) (h : InBlock s c d w r sch xs blk (if i = 0 then .dec0 else .decb))
    (hw : HasWords s x) (hrc : s.rc = some i)
    (hend : ∀ t, InBlock t c d w r sch xs blk .dec0 → HasWords t (decRounds w sch i x) → Ends t out) : Ends s out := by
  induction i generalizing s x with
  | zero => exact hend s h hw
  | succ i ih => exact ends_dec_round h hw hrc hi fun t ht hwt hrct => ih (by omega) ht hwt hrct hend

/-! ### One block -/

/-- What a call of `op` does to the two words of a block (R160, R173). -/
def blockTransform (op : Op) (w : WordSize) (r : Nat) (sch : List Nat) (x : Nat × Nat) : Nat × Nat :=
  if encrypts op then encBlock w r sch x else decBlock w r sch x

/-- `ENC0` and the rounds are the transform of a block (R156, R160). -/
theorem ends_enc0 (h : InBlock s c d w r sch xs blk .enc0) (hw : HasWords s x)
    (hend : ∀ t, InBlock t c d w r sch xs blk .blkst → HasWords t (encBlock w r sch x) → Ends t out) : Ends s out := by
  have hlt := round_word_lt (Nat.zero_le r)
  have hfirst : (if r = 0 then Instr.blkst else .enca) = if 0 + 1 ≤ r then .enca else .blkst := by
    rcases Nat.eq_zero_or_pos r with rfl | hr
    · rfl
    · rw [if_neg hr.ne', if_pos (by omega)]
  refine h.ends <| goesOn_need h.w_eq <| goesOn_need h.r_eq <| goesOn_need hw.a_eq <| goesOn_need hw.b_eq <|
    goesOn_need (h.word (by omega)) <| goesOn_need (h.word hlt) <| hfirst ▸ goesOn_goto (by split <;> rfl) fun p hp => ?_
  exact ends_enc_rounds (x := (addW w x.1 (sch.getD 0 0), addW w x.2 (sch.getD 1 0))) (Nat.zero_add r)
    { h with next := hp } ⟨rfl, rfl⟩ rfl hend

/-- The rounds and `DEC0` are the inverse transform of a block (R172, R173). -/
theorem ends_dec_block (h : InBlock s c d w r sch xs blk (if r = 0 then .dec0 else .decb)) (hw : HasWords s x)
    (hrc : s.rc = some r)
    (hend : ∀ t, InBlock t c d w r sch xs blk .blkst → HasWords t (decBlock w r sch x) → Ends t out) : Ends s out := by
  have hlt := round_word_lt (Nat.zero_le r)
  refine ends_dec_rounds le_rfl h hw hrc fun t ht hwt => ?_
  exact ht.ends <| goesOn_need ht.w_eq <| goesOn_need hwt.a_eq <| goesOn_need hwt.b_eq <|
    goesOn_need (ht.word (by omega)) <| goesOn_need (ht.word hlt) <| goesOn_next <|
    hend _ { ht with next := rfl } ⟨rfl, rfl⟩

/-- The two words of block `blk` (R62, R155). -/
def blockWords (w : WordSize) (blk : Nat) (xs : List Byte) : Nat × Nat :=
  (leWord ((xs.drop (blk * blockBytes w)).take (wordBytes w)),
    leWord ((xs.drop (blk * blockBytes w + wordBytes w)).take (wordBytes w)))

/-- From `BLKLD` a block leads to `BLKST` with its words transformed. -/
theorem ends_blkld (h : InBlock s c d w r sch xs blk .blkld)
    (hend : ∀ t, InBlock t c d w r sch xs blk .blkst → HasWords t (blockTransform d.op w r sch (blockWords w blk xs)) →
      Ends t out) : Ends s out := by
  have hbs := blockBytes_eq w
  have hin := h.inside
  refine h.ends <| goesOn_need h.desc <| goesOn_need h.w_eq <| goesOn_need h.len_eq <| goesOn_need h.blk_eq <|
    goesOn_inSpace (decide_eq_true hin) <| goesOn_need (h.buf.memRead (by omega)) <|
    goesOn_need (h.buf.memRead (by omega)) <| goesOn_ite (fun he => goesOn_next ?_) fun he => goesOn_need h.r_eq ?_
  · rw [blockTransform, if_pos he] at hend
    exact ends_enc0 (x := blockWords w blk xs) { h with next := rfl } ⟨rfl, rfl⟩ hend
  · rw [blockTransform, if_neg he] at hend
    exact goesOn_goto (by split <;> rfl) fun p hp =>
      ends_dec_block (x := blockWords w blk xs) { h with next := hp } ⟨rfl, rfl⟩ rfl hend

/-! ### The loop -/

/-- Whether another block is at its turn or the loop is over, a micro-operation is next. -/
theorem isSome_phaseCode_block (more : Prop) [Decidable more] (op : Op) :
    (phaseCode (if more then .blkld else afterBlocks op)).isSome = true := by
  split
  · rfl
  · cases op <;> rfl

/-- `BLKST` puts the transformed words in place of the block (R159). -/
theorem holds.store {m : Memory} {y : Nat × Nat} {pre block post : List Byte} (h : holds m (pre ++ (block ++ post)))
    (hblock : block.length = blockBytes w) :
    holds (memWrite (memWrite m pre.length (wordBytes w) y.1) (pre.length + wordBytes w) (wordBytes w) y.2)
      (pre ++ (leBytes (wordBytes w) y.1 ++ leBytes (wordBytes w) y.2 ++ post)) := by
  have hlen : (leBytes (wordBytes w) y.1 ++ leBytes (wordBytes w) y.2).length = block.length := by
    rw [List.length_append, leBytes_length, leBytes_length, hblock, blockBytes_eq]
  have hput := h.replace hlen
  rwa [writeBytes_append, leBytes_length] at hput

theorem length_onBytes (f : Nat × Nat → Nat × Nat) (block : List Byte) : (onBytes w f block).length = blockBytes w := by
  rw [onBytes, List.length_append, leBytes_length, leBytes_length, blockBytes_eq]

theorem mapBlocks_succ_append {bs : Nat} (f : List Byte → List Byte) (n : Nat) {block : List Byte} (hblock : block.length = bs)
    (post : List Byte) : mapBlocks bs f (n + 1) (block ++ post) = f block ++ mapBlocks bs f n post := by
  rw [mapBlocks, List.take_left' hblock, List.drop_left' hblock]

/-- The words of a block that follows `blk` others. -/
theorem blockWords_append {done block : List Byte} (hdone : done.length = blk * blockBytes w)
    (hblock : block.length = blockBytes w) (post : List Byte) :
    blockWords w blk (done ++ (block ++ post)) =
      (leWord (block.take (wordBytes w)), leWord ((block.drop (wordBytes w)).take (wordBytes w))) := by
  have hbs := blockBytes_eq w
  rw [blockWords, ← hdone, List.drop_left, List.drop_length_add_append, List.take_append_of_le_length (by omega),
    List.drop_append_of_le_length (by omega), List.take_append_of_le_length (by rw [List.length_drop]; omega)]

/-- `BLKST` puts the transformed block in its place, and the next one is at its turn, if there is one (R159, R163, R176). -/
theorem ends_blkst {y : Nat × Nat} {done block post : List Byte} (h : InBlock s c d w r sch (done ++ (block ++ post)) blk .blkst)
    (hw : HasWords s y) (hdone : done.length = blk * blockBytes w) (hblock : block.length = blockBytes w)
    (hend : ∀ t, Scheduled t c d w r sch (done ++ (leBytes (wordBytes w) y.1 ++ leBytes (wordBytes w) y.2 ++ post))
      (if blk + 1 < (done ++ (block ++ post)).length / blockBytes w then .blkld else afterBlocks d.op) →
      t.blk = some (blk + 1) → Ends t out) : Ends s out := by
  have hbuf := hdone ▸ h.buf.store (y := y) hblock
  have hlen : (done ++ (leBytes (wordBytes w) y.1 ++ leBytes (wordBytes w) y.2 ++ post)).length =
      (done ++ (block ++ post)).length := by
    simp only [List.length_append, leBytes_length, hblock, blockBytes_eq]
  refine h.ends <| goesOn_need h.desc <| goesOn_need h.w_eq <| goesOn_need h.len_eq <| goesOn_need h.blk_eq <|
    goesOn_need hw.a_eq <| goesOn_need hw.b_eq <| goesOn_inSpace (decide_eq_true h.inside) <|
    goesOn_goto (isSome_phaseCode_block _ _) fun p hp => ?_
  exact hend _ { h with next := hp, len_eq := hlen ▸ h.len_eq, buf := hbuf, room := hlen ▸ h.room } rfl

/-- The `n` blocks of `rest`, after those already in `done`, are transformed one by one (R66, R163, R176). -/
theorem ends_blocks {n : Nat} {done rest : List Byte} (hdone : done.length = blk * blockBytes w)
    (hrest : rest.length = n * blockBytes w)
    (h : Scheduled s c d w r sch (done ++ rest) (if 0 < n then .blkld else afterBlocks d.op)) (hblk : s.blk = some blk) :
    Ends s (.ok (resultOf d.op w
      (done ++ mapBlocks (blockBytes w) (onBytes w (blockTransform d.op w r sch)) n rest))) := by
  induction n generalizing s blk done rest with
  | zero =>
    rw [List.eq_nil_of_length_eq_zero (hrest.trans (Nat.zero_mul _))] at h
    exact ends_afterBlocks h.toLoaded
  | succ n ih =>
    have hcount : (done ++ rest).length / blockBytes w = blk + (n + 1) := by
      rw [List.length_append, hdone, hrest, ← Nat.add_mul, Nat.mul_div_cancel _ (blockBytes_pos w)]
    have hmore : blk + 1 < blk + (n + 1) ↔ 0 < n := by omega
    rw [Nat.succ_mul] at hrest
    obtain ⟨block, post, rfl, hblock⟩ : ∃ block post, rest = block ++ post ∧ block.length = blockBytes w :=
      ⟨_, _, (List.take_append_drop _ _).symm, List.length_take_of_le (by omega)⟩
    rw [List.length_append, hblock, Nat.add_comm, Nat.add_right_cancel_iff] at hrest
    refine ends_blkld { h with blk_eq := hblk, inside := by simp only [List.length_append]; omega } fun t ht hwt => ?_
    refine ends_blkst ht hwt hdone hblock fun u hu hblku => ?_
    rw [blockWords_append hdone hblock] at hu
    simp only [hcount, hmore] at hu
    rw [mapBlocks_succ_append _ n hblock, ← List.append_assoc]
    refine ih ?_ hrest (by rwa [List.append_assoc]) hblku
    rw [List.length_append, length_onBytes, hdone, Nat.succ_mul]

/-- The loop over a buffer of whole blocks transforms each of them (R163, R176). -/
theorem goesOn_startBlocks {i : Instr} (h : Scheduled s c d w r sch xs i) (haligned : xs.length % blockBytes w = 0) :
    GoesOn (.next (startBlocks d.op w xs.length s)) (Ends · (.ok (resultOf d.op w
      (mapBlocks (blockBytes w) (onBytes w (blockTransform d.op w r sch)) (xs.length / blockBytes w) xs)))) := by
  rw [startBlocks_eq]
  exact goesOn_goto (isSome_phaseCode_block _ _) fun p hp => ends_blocks (done := []) (Nat.zero_mul _).symm
    (Nat.div_mul_cancel (Nat.dvd_of_mod_eq_zero haligned)).symm { h with next := hp } rfl

end Sys2Proof.Machine
end

section
/-! PROOFS. A call from its `CMD` write on: the key schedule is `KEXP` of the latched key (R141), the payload is loaded and
checked, and the call ends with the outcome of the composed rules (R100, R101, R104, R105, R110). -/

namespace Sys2Proof.Machine

variable {s : State} {c : Config} {d : Descriptor} {w : WordSize} {r : Nat} {xs : List Byte} {sch : List Nat}

/-! ### After the key schedule -/

/-- What is in the buffer when the block loop begins: on the encrypt side it has been padded (R100). -/
def prepared (op : Op) (w : WordSize) (xs : List Byte) : List Byte :=
  if encrypts op then padBytes (blockBytes w) xs else xs

/-- What the call of `op` makes of the loaded bytes under a schedule. -/
def finalBytes (op : Op) (w : WordSize) (r : Nat) (sch : List Nat) (xs : List Byte) : List Byte :=
  resultOf op w (mapBlocks (blockBytes w) (onBytes w (blockTransform op w r sch))
    ((prepared op w xs).length / blockBytes w) (prepared op w xs))

theorem padBytes_length (bs : Nat) (xs : List Byte) : (padBytes bs xs).length = xs.length + padCount bs xs.length := by
  rw [padBytes, List.length_append, List.length_replicate]

theorem ends_pad (h : Scheduled s c d w r sch xs .pad) (he : encrypts d.op = true)
    (hroom : fits s.cfg.bufCap (xs.length + (blockBytes w - 1)) = true) : Ends s (.ok (finalBytes d.op w r sch xs)) := by
  have hlen := padBytes_length (blockBytes w) xs
  have hfits := fits_mono hroom (Nat.add_le_add_left (padCount_le w xs.length) xs.length)
  rw [finalBytes, prepared, if_pos he]
  refine h.ends <| goesOn_need h.desc <| goesOn_need h.w_eq <| goesOn_need h.len_eq <| goesOn_inSpace hfits ?_
  rw [← hlen]
  refine goesOn_startBlocks (i := .pad) { h with len_eq := rfl, buf := h.buf.append _, room := hlen ▸ hfits } ?_
  rw [hlen, add_padCount_mod]

theorem goesOn_afterSchedule {i : Instr} (h : Scheduled s c d w r sch xs i) (hready : bufReady s d.op w xs.length) :
    GoesOn (afterSchedule s) (Ends · (.ok (finalBytes d.op w r sch xs))) := by
  refine goesOn_need h.desc <| goesOn_ite (fun he => goesOn_next ?_) fun he => ?_
  · exact ends_pad { h with next := rfl } he ((bufReady_of_encrypts he).1 hready)
  · rw [finalBytes, prepared, if_neg he]
    exact goesOn_need h.w_eq <| goesOn_need h.len_eq <| goesOn_startBlocks h <|
      (bufReady_of_decrypts (Bool.eq_false_of_not_eq_true he)).1 hready

/-! ### The key schedule -/

/-- The loaded bytes have been checked, and there is room for their padding (R102, R103). -/
structure Ready (s : State) (c : Config) (d : Descriptor) (w : WordSize) (r : Nat) (xs : List Byte) (i : Instr) : Prop
    extends Loaded s c d w r xs i where
  ready : bufReady s d.op w xs.length

/-- The registers of the key mix hold `x`, after `n` iterations (R36). -/
structure Mixing (s : State) (w : WordSize) (r b : Nat) (x : Mix) (n : Nat) : Prop where
  sch_eq     : s.sch = x.s
  l_eq       : s.l = x.l
  ka_eq      : s.ka = some x.ka
  kb_eq      : s.kb = some x.kb
  i_eq       : s.i = some x.i
  j_eq       : s.j = some x.j
  n_eq       : s.n = some n
  sch_length : x.s.length = scheduleLength r
  l_length   : x.l.length = keyWords w b
  i_lt       : x.i < x.s.length
  j_lt       : x.j < x.l.length

/-- One iteration of `KMIX` is one pass of the loop of `KEXP` (R140, R141). -/
theorem kmix_pass {x : Mix} {n : Nat} (h : Ready s c d w r xs .kmix) (hm : Mixing s w r d.key.length x n) :
    ∃ t, Ready t c d w r xs .kmix ∧ Mixing t w r d.key.length (mixPass c w x) (n + 1) ∧
      exec .kmix s = if n + 1 < mixCount w r d.key.length then .next (goto .kmix t) else afterSchedule t := by
  obtain rfl := h.cfg
  have hsi : s.sch[x.i]? = some (x.s.getD x.i 0) := by
    rw [hm.sch_eq, List.getElem?_eq_getElem hm.i_lt, List.getD_eq_getElem _ _ hm.i_lt]
  have hlj : s.l[x.j]? = some (x.l.getD x.j 0) := by
    rw [hm.l_eq, List.getElem?_eq_getElem hm.j_lt, List.getD_eq_getElem _ _ hm.j_lt]
  refine ⟨_, ?_, ?_, (need_of_eq h.w_eq).trans <| (need_of_eq h.r_eq).trans <| (need_of_eq h.blen_eq).trans <|
    (need_of_eq hm.ka_eq).trans <| (need_of_eq hm.kb_eq).trans <| (need_of_eq hm.i_eq).trans <| (need_of_eq hm.j_eq).trans <|
    (need_of_eq hm.n_eq).trans <| (need_of_eq hsi).trans <| need_of_eq hlj⟩
  · exact { h with }
  · have hs : (mixPass s.cfg w x).s.length = x.s.length := List.length_set ..
    have hl : (mixPass s.cfg w x).l.length = x.l.length := List.length_set ..
    exact {
      sch_eq := by rw [hm.sch_eq]; rfl
      l_eq := by rw [hm.l_eq]; rfl
      ka_eq := rfl
      kb_eq := rfl
      i_eq := by rw [← hm.sch_length]; rfl
      j_eq := by rw [← hm.l_length]; rfl
      n_eq := rfl
      sch_length := hs.trans hm.sch_length
      l_length := hl.trans hm.l_length
      i_lt := hs ▸ Nat.mod_lt _ (by have := hm.i_lt; omega)
      j_lt := hl ▸ Nat.mod_lt _ (by have := hm.j_lt; omega) }

/-- The iterations left, `n + 1` of them, end the loop of `KEXP` (R141). -/
theorem ends_kmix {x : Mix} {k n : Nat} (hn : k + (n + 1) = mixCount w r d.key.length) (h : Ready s c d w r xs .kmix)
    (hm : Mixing s w r d.key.length x k) : Ends s (.ok (finalBytes d.op w r (mixLoop c w (n + 1) x).s xs)) := by
  induction n generalizing s x k with
  | zero =>
    obtain ⟨t, ht, hmt, hexec⟩ := kmix_pass (s := tick s.busy.toNat s) { h with } { hm with }
    refine h.ends ?_
    rw [hexec, if_neg (by omega)]
    exact goesOn_afterSchedule { ht with sch_eq := hmt.sch_eq, sch_length := hmt.sch_length } ht.ready
  | succ n ih =>
    obtain ⟨t, ht, hmt, hexec⟩ := kmix_pass (s := tick s.busy.toNat s) { h with } { hm with }
    refine h.ends ?_
    rw [hexec, if_pos (by omega)]
    exact goesOn_next <| ih (s := goto .kmix t) (by omega) { ht with next := rfl } { hmt with }

/-- From `KSEL` on the schedule becomes that of the latched key, and the call goes through its blocks (R124, R135 to R141). -/
theorem ends_ksel (h : Ready s c d w r xs .ksel) : Ends s (.ok (finalBytes d.op w r (keySchedule c w r d.key) xs)) := by
  obtain rfl := h.cfg
  have hcount : 0 + (mixCount w r d.key.length - 1 + 1) = mixCount w r d.key.length := by
    have := mixCount_pos w r d.key.length
    omega
  rw [keySchedule, ← hcount, Nat.zero_add]
  refine h.ends <| goesOn_need h.w_eq <| goesOn_next <| ends_of_exec (i := .kpack) rfl h.host ?_
  refine goesOn_need h.w_eq <| goesOn_need h.blen_eq <| goesOn_need h.key <| goesOn_next <|
    ends_of_exec (i := .sinit) rfl h.host ?_
  refine goesOn_need h.w_eq <| goesOn_need h.r_eq <| goesOn_need rfl <| goesOn_need rfl <| goesOn_next <|
    ends_of_exec (i := .kmix0) rfl h.host <| goesOn_next ?_
  have hs : (initialSchedule s.cfg w r).length = scheduleLength r := progression_length ..
  have hl := packKey_length w d.key
  exact ends_kmix hcount { h with next := rfl } {
    sch_eq := rfl, l_eq := rfl, ka_eq := rfl, kb_eq := rfl, i_eq := rfl, j_eq := rfl, n_eq := rfl
    sch_length := hs
    l_length := hl
    i_lt := hs ▸ two_pos.trans_le (scheduleLength_pos r)
    j_lt := hl ▸ keyWords_pos w _ }

/-! ### Loading (R102, R103, R198) -/

/-- The outcome of the call of `d` once its parameters are accepted. -/
def loadedOutcome (c : Config) (d : Descriptor) (w : WordSize) (r : Nat) : Except FailKind (List Byte) :=
  (loadedBytes c w d).map (finalBytes d.op w r (keySchedule c w r d.key))

theorem ends_lenchk (h : Loaded s c d w r xs .lenchk) (he : encrypts d.op = false) :
    Ends s ((if xs.length % blockBytes w = 0 then .ok xs else .error .arg : Except FailKind (List Byte)).map
      (finalBytes d.op w r (keySchedule c w r d.key))) := by
  refine h.ends <| goesOn_need h.w_eq <| goesOn_need h.len_eq <| goesOn_ite (fun haligned => ?_) fun haligned => ?_
  · rw [if_pos haligned]
    exact goesOn_next <| ends_ksel { h with next := rfl, ready := (bufReady_of_decrypts he).2 haligned }
  · rw [if_neg haligned]
    exact goesOn_raise .arg h.host

/-- A payload within the limit of `LOADP` has been latched whole (R102, R249). -/
theorem payload_length_of_fits {n : Nat} (hd : descOk c d) (hcap : fits c.bufCap n = true) (hn : d.pIn.toNat ≤ 2 * n) :
    d.payload.length = d.pIn.toNat :=
  hd.2.trans <| payloadFit_eq fun cap hc => by
    have := fits_iff.1 hcap cap hc
    omega

theorem loadedBytes_of_encrypts (he : encrypts d.op = true) :
    loadedBytes c w d = if fits (loadLimit c w d.op) d.pIn.toNat then .ok d.payload else .error .arg := by
  obtain hop | hop := encrypts_eq_true.1 he <;> simp only [loadedBytes, hop]

theorem loadedBytes_of_decBytes (hop : d.op = .decBytes) :
    loadedBytes c w d =
      if fits (loadLimit c w d.op) d.pIn.toNat then
        if d.pIn.toNat % blockBytes w = 0 then .ok d.payload else .error .arg
      else .error .arg := by
  simp only [loadedBytes, hop]

theorem loadedBytes_of_unfit (hop : d.op ≠ .decrypt) (hfit : ¬fits (loadLimit c w d.op) d.pIn.toNat = true) :
    loadedBytes c w d = .error .arg := by
  cases he : encrypts d.op with
  | true => rw [loadedBytes_of_encrypts he, if_neg hfit]
  | false => rw [loadedBytes_of_decBytes ((encrypts_eq_false.1 he).resolve_left hop), if_neg hfit]

theorem ends_loadp (h : Accepted s c d w r .loadp) (hc : c.wf = true) (hd : descOk c d) (hop : d.op ≠ .decrypt) :
    Ends s (loadedOutcome c d w r) := by
  obtain rfl := h.cfg
  rw [loadedOutcome]
  by_cases hfit : fits (loadLimit s.cfg w d.op) d.pIn.toNat = true
  · obtain ⟨hcap, hpad⟩ := fits_of_loadLimit hc hfit
    have hlen := payload_length_of_fits hd hcap (by omega)
    refine h.ends ⟨_, loadp_of_fits h.desc h.w_eq hfit hlen, ?_⟩
    rw [← hlen] at hcap hpad ⊢
    cases he : encrypts d.op with
    | true =>
      rw [loadedBytes_of_encrypts he, if_pos hfit]
      exact ends_ksel { h with
        next := rfl, len_eq := rfl, buf := holds_writeBytes .., room := hcap, ready := (bufReady_of_encrypts he).2 (hpad he) }
    | false =>
      rw [loadedBytes_of_decBytes ((encrypts_eq_false.1 he).resolve_left hop), if_pos hfit, ← hlen]
      exact ends_lenchk { h with next := rfl, len_eq := rfl, buf := holds_writeBytes .., room := hcap } he
  · rw [loadedBytes_of_unfit hop hfit]
    exact h.ends ⟨_, loadp_of_unfit h.desc h.w_eq hfit, ends_fail rfl rfl h.host⟩

/-- On a string that `HEXDEC` accepts the composed rule is left with the check of `LENCHK` (R101, R103). -/
theorem loadedBytes_of_hex {bytes : List Byte} (hop : d.op = .decrypt)
    (hok : (d.pIn.toNat % 2 = 0 && allDigits c.hexInCase d.payload) = true) (hcap : fits c.bufCap (d.pIn.toNat / 2) = true)
    (hdec : hexDecode c.hexInCase d.payload = some bytes) :
    loadedBytes c w d = if d.pIn.toNat / 2 % blockBytes w = 0 then .ok bytes else .error .arg := by
  simp only [loadedBytes, hop, hok, hcap, hdec, if_true]

theorem ends_hexdec (h : Accepted s c d w r .hexdec) (hd : descOk c d) (hop : d.op = .decrypt) :
    Ends s (loadedOutcome c d w r) := by
  obtain rfl := h.cfg
  refine h.ends <| goesOn_need h.desc <|
    goesOn_ite (fun (hok : (d.pIn.toNat % 2 = 0 && allDigits s.cfg.hexInCase d.payload) = true) =>
      goesOn_ite (fun (hcap : fits s.cfg.bufCap (d.pIn.toNat / 2) = true) => ?_)
        fun (hcap : ¬fits s.cfg.bufCap (d.pIn.toNat / 2) = true) => ?_)
      fun (hok : ¬(d.pIn.toNat % 2 = 0 && allDigits s.cfg.hexInCase d.payload) = true) => ?_
  · obtain ⟨heven, hdigits⟩ := Bool.and_eq_true_iff.1 hok
    have heven := of_decide_eq_true heven
    have hlen := payload_length_of_fits hd hcap (by omega)
    obtain ⟨bytes, hdec, hbytes⟩ := hexDecode_of_allDigits s.cfg.hexInCase (d.pIn.toNat / 2) d.payload (by omega) hdigits
    refine goesOn_need (takeExact_of_length hlen) <| goesOn_need hdec <| goesOn_next ?_
    rw [loadedOutcome, loadedBytes_of_hex hop hok hcap hdec, ← hbytes]
    exact ends_lenchk { h with next := rfl, len_eq := rfl, buf := holds_writeBytes .., room := hbytes ▸ hcap } (hop ▸ rfl)
  · have hbytes : loadedBytes s.cfg w d = .error .arg := by simp only [loadedBytes, hop, hok, hcap, if_true]; rfl
    rw [loadedOutcome, hbytes]
    exact goesOn_raise .arg h.host
  · have hbytes : loadedBytes s.cfg w d = .error .hexFormat := by simp only [loadedBytes, hop, hok]; rfl
    rw [loadedOutcome, hbytes]
    exact goesOn_raise .hexFormat h.host

/-! ### Validation, and the whole call -/

/-- The outcome of a call is that of its parameters' check, and then of the loading (R110, R120, R213). -/
theorem callResult_eq (c : Config) (d : Descriptor) :
    callResult c d = (checkParams d).bind fun x => loadedOutcome c d x.1 x.2 := by
  rw [callResult]
  cases checkParams d with
  | error e => rfl
  | ok x =>
    obtain ⟨w, r⟩ := x
    simp only [Except.bind, loadedOutcome]
    cases loadedBytes c w d with
    | error e => rfl
    | ok xs =>
      simp only [Except.map]
      generalize d.op = op
      cases op <;> rfl

theorem loadPhase_of_ne {op : Op} (h : op ≠ .decrypt) : loadPhase op = .loadp := by
  cases op with
  | decrypt => exact absurd rfl h
  | encrypt | encBytes | decBytes => rfl

theorem ends_validate (h : At s c d .validate) (hc : c.wf = true) (hd : descOk c d) : Ends s (callResult c d) := by
  rw [callResult_eq]
  refine h.ends <| goesOn_need h.desc ?_
  cases hw : wordSizeOf d.wReq.toInt with
  | none =>
    rw [show checkParams d = .error .wordSize by simp only [checkParams, hw]]
    exact goesOn_raise .wordSize h.host
  | some w =>
    refine goesOn_ite (fun hr => goesOn_ite (fun hb => ?_) fun hb => ?_) fun hr => ?_
    · rw [show checkParams d = .ok (w, d.rReq.toInt.toNat) by simp only [checkParams, hw, hr, hb, if_true]]
      have hkey : d.key.length = d.bIn.toNat := hd.1.trans (min_eq_left (of_decide_eq_true hb))
      refine goesOn_need (takeExact_of_length hkey) <| goesOn_next ?_
      by_cases hop : d.op = .decrypt
      · rw [show loadPhase d.op = .hexdec by rw [hop]; rfl]
        refine ends_hexdec { h with
          next := rfl, w_eq := rfl, r_eq := rfl, blen_eq := congrArg some hkey.symm, key := holds_writeBytes .. } hd hop
      · rw [loadPhase_of_ne hop]
        exact ends_loadp { h with
          next := rfl, w_eq := rfl, r_eq := rfl, blen_eq := congrArg some hkey.symm, key := holds_writeBytes .. } hc hd hop
    · rw [show checkParams d = .error .keyLen by simp only [checkParams, hw, hr, hb, if_true]; rfl]
      exact goesOn_raise .keyLen h.host
    · rw [show checkParams d = .error .rounds by simp only [checkParams, hw, hr]; rfl]
      exact goesOn_raise .rounds h.host

/-- Settles O53: the call starts at `VALIDATE`, with what was latched as its descriptor. -/
theorem callComputesItsResult : Obligations.CallComputesItsResult := by
  intro s op h hb hh
  obtain ⟨u, hu, k, t, hr, hend⟩ : GoesOn (step s) (Ends · (callResult s.cfg (latch op s))) :=
    ⟨_, (step_of_command hh).trans (startCall_command op (s := commanded op s) hb),
      ends_validate ⟨rfl, rfl, rfl, rfl⟩ h.config (descOk_latch op s)⟩
  exact ⟨k + 1, t, reaches_succ.2 ⟨u, hu, hr⟩, hend⟩

end Sys2Proof.Machine
end

section
/-! PROOFS. The composites as functions (R109, R111): decryption undoes encryption, block by block, and `UNPAD` takes off what
`PAD` put on, so that the round trip of the operations is exact but for its one exception. -/

namespace Sys2Proof.Machine

variable {w : WordSize} {r : Nat} {sch : List Nat} {x : Nat × Nat}

/-! ### The block transforms (R177) -/

/-- Both are `w`-bit words (R37). -/
def areWords (w : WordSize) (x : Nat × Nat) : Prop := x.1 < 2 ^ w.bits ∧ x.2 < 2 ^ w.bits

theorem decHalf_encHalf {x other key : Nat} (hx : x < 2 ^ w.bits) (ho : other < 2 ^ w.bits) (hk : key < 2 ^ w.bits) :
    decHalf w (encHalf w x other key) other key = x := by
  have hn := amount_lt w other
  have hxor := xorW_lt hx ho
  rw [decHalf, encHalf, subW_addW (rotl_lt hxor hn) hk, rotr_rotl hxor hn.le, xorW_xorW]

theorem getD_lt (hsch : wordsBounded w sch) (k : Nat) : sch.getD k 0 < 2 ^ w.bits := by
  rcases Nat.lt_or_ge k sch.length with hk | hk
  · rw [List.getD_eq_getElem _ _ hk]
    exact hsch _ (List.getElem_mem hk)
  · rw [List.getD_eq_default _ _ hk]
    positivity

theorem decRound_encRound (hsch : wordsBounded w sch) (i : Nat) (hx : areWords w x) :
    decRound w sch i (encRound w sch i x) = x := by
  obtain ⟨ha, hb⟩ := hx
  simp only [decRound, encRound, decHalf_encHalf hb (encHalf_lt ..) (getD_lt hsch _),
    decHalf_encHalf ha hb (getD_lt hsch _)]

theorem areWords_encRounds (r : Nat) (hx : areWords w x) : areWords w (encRounds w sch r x) := by
  cases r with
  | zero => exact hx
  | succ r => exact ⟨encHalf_lt .., encHalf_lt ..⟩

theorem decRounds_encRounds (hsch : wordsBounded w sch) (r : Nat) (hx : areWords w x) :
    decRounds w sch r (encRounds w sch r x) = x := by
  induction r with
  | zero => rfl
  | succ r ih => rw [encRounds, decRounds, decRound_encRound hsch _ (areWords_encRounds r hx), ih]

theorem areWords_encBlock (r : Nat) (x : Nat × Nat) : areWords w (encBlock w r sch x) :=
  areWords_encRounds r ⟨addW_lt .., addW_lt ..⟩

theorem decBlock_encBlock (hsch : wordsBounded w sch) (r : Nat) (hx : areWords w x) :
    decBlock w r sch (encBlock w r sch x) = x := by
  obtain ⟨ha, hb⟩ := hx
  rw [decBlock, encBlock, decRounds_encRounds hsch r ⟨addW_lt .., addW_lt ..⟩]
  exact Prod.ext (subW_addW ha (getD_lt hsch _)) (subW_addW hb (getD_lt hsch _))

/-- The schedule is one of words (R143; of a rotator other than `REDUCE` by log 4). -/
theorem wordsBounded_keySchedule {c : Config} (hc : c.wf = true) (w : WordSize) (r : Nat) (key : List Byte) :
    wordsBounded w (keySchedule c w r key) := by
  have hloop (n : Nat) (m : Mix) (hm : wordsBounded w m.s) : wordsBounded w (mixLoop c w n m).s := by
    induction n generalizing m with
    | zero => exact hm
    | succ n ih => exact ih _ (wordsBounded_set hm (mixS_lt ..))
  exact hloop _ _ (progression_lt _ (magicOf_lt (Bool.and_eq_true_iff.1 hc).1 w).1)

/-! ### Blocks of bytes -/

variable {f g : Nat × Nat → Nat × Nat}

/-- As many bytes as a word has make a word. -/
theorem leWord_lt_of_length {xs : List Byte} (h : xs.length = wordBytes w) : leWord xs < 2 ^ w.bits := by
  rw [bits_eq, ← h]
  exact leWord_lt xs

theorem leWord_leBytes_word {y : Nat} (hy : y < 2 ^ w.bits) : leWord (leBytes (wordBytes w) y) = y := by
  refine leWord_leBytes ?_
  rwa [show 256 = 2 ^ 8 from rfl, ← pow_mul, ← bits_eq]

/-- A transform reads the two words it is given as bytes (R62). -/
theorem onBytes_leBytes {y : Nat × Nat} (hy : areWords w y) (g : Nat × Nat → Nat × Nat) :
    onBytes w g (leBytes (wordBytes w) y.1 ++ leBytes (wordBytes w) y.2) =
      leBytes (wordBytes w) (g y).1 ++ leBytes (wordBytes w) (g y).2 := by
  obtain ⟨h1, h2⟩ := hy
  rw [onBytes, List.take_left' (leBytes_length ..), List.drop_left' (leBytes_length ..),
    List.take_of_length_le (leBytes_length ..).le, leWord_leBytes_word h1, leWord_leBytes_word h2]

theorem leBytes_leWord_of_length {xs : List Byte} {u : Nat} (h : xs.length = u) : leBytes u (leWord xs) = xs := by
  subst h
  exact leBytes_leWord xs

/-- On the bytes of a block a transform is undone as it is on words. -/
theorem onBytes_onBytes {block : List Byte} (hblock : block.length = blockBytes w) (hf : ∀ x, areWords w (f x))
    (hgf : ∀ x, areWords w x → g (f x) = x) : onBytes w g (onBytes w f block) = block := by
  have hbs := blockBytes_eq w
  have hlow : (block.take (wordBytes w)).length = wordBytes w := List.length_take_of_le (by omega)
  have hhigh : (block.drop (wordBytes w)).length = wordBytes w := by rw [List.length_drop]; omega
  have hread : onBytes w g (onBytes w f block) = _ := onBytes_leBytes (hf _) g
  rw [hread, List.take_of_length_le hhigh.le, hgf _ ⟨leWord_lt_of_length hlow, leWord_lt_of_length hhigh⟩]
  calc leBytes (wordBytes w) (leWord (block.take (wordBytes w))) ++ leBytes (wordBytes w) (leWord (block.drop (wordBytes w)))
    _ = block.take (wordBytes w) ++ block.drop (wordBytes w) :=
      congrArg₂ _ (leBytes_leWord_of_length hlow) (leBytes_leWord_of_length hhigh)
    _ = block := List.take_append_drop ..

/-- Blocks before and after are transformed on their own (R66). -/
theorem mapBlocks_add {bs n : Nat} {f : List Byte → List Byte} {xs : List Byte} (hxs : xs.length = n * bs) (m : Nat)
    (ys : List Byte) : mapBlocks bs f (n + m) (xs ++ ys) = mapBlocks bs f n xs ++ mapBlocks bs f m ys := by
  induction n generalizing xs with
  | zero =>
    obtain rfl := List.eq_nil_of_length_eq_zero (hxs.trans (Nat.zero_mul _))
    rw [Nat.zero_add]
    rfl
  | succ n ih =>
    rw [Nat.succ_mul] at hxs
    rw [Nat.succ_add, mapBlocks, mapBlocks, List.take_append_of_le_length (by omega), List.drop_append_of_le_length (by omega),
      ih (by rw [List.length_drop]; omega), List.append_assoc]

theorem length_mapBlocks {bs : Nat} {f : List Byte → List Byte} (hf : ∀ block, (f block).length = bs) (n : Nat)
    (xs : List Byte) : (mapBlocks bs f n xs).length = n * bs := by
  induction n generalizing xs with
  | zero => exact (Nat.zero_mul _).symm
  | succ n ih => rw [mapBlocks, List.length_append, hf, ih, Nat.succ_mul, Nat.add_comm]

/-- What undoes each block undoes them all. -/
theorem mapBlocks_mapBlocks {bs : Nat} {f g : List Byte → List Byte} (hf : ∀ block, (f block).length = bs)
    (hgf : ∀ block, block.length = bs → g (f block) = block) {n : Nat} {xs : List Byte} (hxs : xs.length = n * bs) :
    mapBlocks bs g n (mapBlocks bs f n xs) = xs := by
  induction n generalizing xs with
  | zero => exact (List.eq_nil_of_length_eq_zero (hxs.trans (Nat.zero_mul _))).symm
  | succ n ih =>
    rw [Nat.succ_mul] at hxs
    refine (mapBlocks_succ_append g n (hf _) _).trans ?_
    rw [hgf _ (List.length_take_of_le (by omega)), ih (by rw [List.length_drop]; omega), List.take_append_drop]

/-- A buffer of whole blocks has `len / bs` of them. -/
theorem length_eq_mul {xs : List Byte} (h : xs.length % blockBytes w = 0) :
    xs.length = xs.length / blockBytes w * blockBytes w := (Nat.div_mul_cancel (Nat.dvd_of_mod_eq_zero h)).symm

/-- `DECALL` undoes `ENCALL` (R177). -/
theorem decAll_encAll (hsch : wordsBounded w sch) (r : Nat) {xs : List Byte} (h : xs.length % blockBytes w = 0) :
    decAll w r sch (encAll w r sch xs) = xs := by
  rw [decAll, encAll, length_mapBlocks (length_onBytes _), Nat.mul_div_cancel _ (blockBytes_pos w)]
  exact mapBlocks_mapBlocks (length_onBytes _)
    (fun _ hblock => onBytes_onBytes hblock (areWords_encBlock r) fun _ hx => decBlock_encBlock hsch r hx) (length_eq_mul h)

/-! ### Padding (R187, R191) -/

/-- A buffer of whole blocks is not padded. -/
theorem padBytes_of_aligned {xs : List Byte} (h : xs.length % blockBytes w = 0) : padBytes (blockBytes w) xs = xs := by
  rw [padBytes, padCount_eq, if_pos h, List.replicate_zero, List.append_nil]

theorem unpadBytes_of_getLast {bs : Nat} {xs : List Byte} {q : Byte} (h : xs.getLast? = some q) :
    unpadBytes bs xs = xs.take (xs.length - unpadCount bs xs.length q.toNat) := by
  rw [unpadBytes, h]

/-- `UNPAD` takes off `n` bytes of value `n`, if there is one of them and no more than a block (R188). -/
theorem unpadBytes_append_replicate {n : Nat} (hpos : 0 < n) (hn : n ≤ blockBytes w) (xs : List Byte) :
    unpadBytes (blockBytes w) (xs ++ List.replicate n (BitVec.ofNat 8 n)) = xs := by
  have hbs := blockBytes_le w
  have hlast : (xs ++ List.replicate n (BitVec.ofNat 8 n)).getLast? = some (BitVec.ofNat 8 n) := by
    rw [List.getLast?_append, List.getLast?_replicate, if_neg hpos.ne', Option.some_or]
  have hq : (BitVec.ofNat 8 n).toNat = n := (BitVec.toNat_ofNat ..).trans (Nat.mod_eq_of_lt (by omega))
  rw [unpadBytes_of_getLast hlast, hq, List.length_append, List.length_replicate, unpadCount,
    if_pos ⟨hpos, hn, Nat.le_add_left ..⟩, Nat.add_sub_cancel, List.take_left]

/-- What `PAD` put on a last block that was not whole is what `UNPAD` takes off. -/
theorem unpadBytes_padBytes {xs : List Byte} (h : xs.length % blockBytes w ≠ 0) :
    unpadBytes (blockBytes w) (padBytes (blockBytes w) xs) = xs := by
  have hmod := Nat.mod_lt xs.length (blockBytes_pos w)
  have hcount : padCount (blockBytes w) xs.length = blockBytes w - xs.length % blockBytes w := by
    rw [padCount_eq, if_neg h]
  exact unpadBytes_append_replicate (by omega) (by omega) xs

/-! ### The operations -/

variable {c : Config} {key : List Byte}

/-- Between the ciphers of a round trip nothing is left but `PAD` and `UNPAD` (R109). -/
theorem decBytesOf_encBytesOf (hc : c.wf = true) (r : Nat) (key xs : List Byte) :
    decBytesOf c w r key (encBytesOf c w r key xs) = unpadBytes (blockBytes w) (padBytes (blockBytes w) xs) := by
  rw [decBytesOf, encBytesOf, decAll_encAll (wordsBounded_keySchedule hc w r key)]
  rw [padBytes_length, add_padCount_mod]

/-- Settles O44: padding that was put on is taken off, and of whole blocks a last byte of `1 .. bs` is taken for padding. -/
theorem commandRoundTrip : Obligations.CommandRoundTrip := by
  intro c w r key xs hc _ _
  rw [decBytesOf_encBytesOf hc]
  refine ⟨fun h => ?_, fun q haligned hq => ?_⟩
  · obtain h | rfl := h
    · exact unpadBytes_padBytes h
    · rw [padBytes_of_aligned (Nat.zero_mod _)]
      rfl
  · rw [padBytes_of_aligned haligned, unpadBytes_of_getLast hq, unpadCount]
    have hlen : 0 < xs.length := List.length_pos_of_mem (List.mem_of_getLast? hq)
    have hblock := Nat.le_of_dvd hlen (Nat.dvd_of_mod_eq_zero haligned)
    refine ⟨fun (hout : q.toNat = 0 ∨ blockBytes w < q.toNat) => ?_, fun h1 hle => ?_⟩
    · rw [if_neg fun ⟨h1, hle, _⟩ => by omega, Nat.sub_zero, List.take_length]
    · rw [if_pos ⟨h1, hle, hle.trans hblock⟩]

/-- A digit's value is read back (R197). -/
theorem hexVal_hexDigit (case : HexInCase) {v : Nat} (hv : v < 16) : hexVal case (hexDigit v) = some v := by
  have hall : ∀ v < 16, hexVal case (hexDigit v) = some v := by cases case <;> decide
  exact hall v hv

/-- What was written as digits is read back (R199). -/
theorem hexDecode_hexEncode (case : HexInCase) (xs : List Byte) : hexDecode case (hexEncode xs) = some xs := by
  induction xs with
  | nil => rfl
  | cons x xs ih =>
    have hbyte : BitVec.ofNat 8 (16 * (x.toNat / 16) + x.toNat % 16) = x := by
      rw [Nat.div_add_mod, BitVec.ofNat_toNat, BitVec.setWidth_eq]
    have hhi : x.toNat / 16 < 16 := by omega
    simp only [hexEncode, hexDecode, hexVal_hexDigit case hhi, hexVal_hexDigit case (Nat.mod_lt x.toNat (by decide : 16 > 0)), ih,
      hbyte]

/-- Settles O45: the string of digits is read back, and the bytes of such a text meet no exception of R109. -/
theorem textRoundTrip : Obligations.TextRoundTrip := by
  intro Text codec c w r text key hc hr hkey htext
  obtain ⟨hwhole, hlast⟩ := commandRoundTrip c w r (codec.utf8 key) (codec.utf8 text) hc hr hkey
  have hbytes : decBytesOf c w r (codec.utf8 key) (encBytesOf c w r (codec.utf8 key) (codec.utf8 text)) = codec.utf8 text := by
    by_cases haligned : (codec.utf8 text).length % (2 * w.bits / 8) = 0
    · cases hq : (codec.utf8 text).getLast? with
      | none => exact hwhole (.inr (List.getLast?_eq_none_iff.1 hq))
      | some q => exact (hlast q haligned hq).1 (htext q hq haligned)
    · exact hwhole (.inl haligned)
  rw [decryptText, encryptText, hexDecode_hexEncode, Option.map_some, hbytes, codec.lossless]

/-- Whole blocks in front change nothing of the padding (R185). -/
theorem padBytes_append {xs : List Byte} (h : xs.length % blockBytes w = 0) (ys : List Byte) :
    padBytes (blockBytes w) (xs ++ ys) = xs ++ padBytes (blockBytes w) ys := by
  have hcount : padCount (blockBytes w) (xs ++ ys).length = padCount (blockBytes w) ys.length := by
    rw [padCount_eq, padCount_eq, List.length_append, Nat.add_mod, h, Nat.zero_add, Nat.mod_mod]
  rw [padBytes, padBytes, hcount, List.append_assoc]

/-- Settles O46: the first part is not padded, and its blocks are transformed on their own. -/
theorem blockIndependence : Obligations.BlockIndependence := by
  intro c w r key xs ys (haligned : xs.length % blockBytes w = 0)
  rw [encBytesOf, encBytesOf, encBytesOf, padBytes_append haligned, padBytes_of_aligned haligned, encAll, encAll, encAll,
    List.length_append, Nat.add_div_of_dvd_right (Nat.dvd_of_mod_eq_zero haligned), mapBlocks_add (length_eq_mul haligned)]

end Sys2Proof.Machine
end

section
/-! PROOFS. The parameters' checks (R120 to R123) and the constants of the word size (R124): `VALIDATE` by the whole next state
of each of its branches, `KSEL` by its one. -/

namespace Sys2Proof.Machine

/-! ### What the checks accept -/

/-- No word size is named outside 16, 32, 64 (R121). -/
theorem wordSizeOf_of_unsupported {v : Int} (h : ¬(v = 16 ∨ v = 32 ∨ v = 64)) : wordSizeOf v = none := by
  rw [not_or, not_or] at h
  obtain ⟨h16, h32, h64⟩ := h
  rw [wordSizeOf, if_neg h16, if_neg h32, if_neg h64]

/-- The number of bits names its word size (R121). -/
theorem wordSizeOf_bits (w : WordSize) : wordSizeOf w.bits = some w := by cases w <;> rfl

theorem roundsOk_iff {v : Int} : roundsOk v = true ↔ 0 ≤ v ∧ v ≤ 255 := by
  rw [roundsOk, Bool.and_eq_true, decide_eq_true_eq, decide_eq_true_eq]

theorem keyLenOk_iff {b : Nat} : keyLenOk b = true ↔ b ≤ 255 := decide_eq_true_iff

/-! ### The branches of `VALIDATE` -/

/-- Where the call goes on to load its payload (R100, R101, R104, R105). -/
theorem goto_loadPhase (op : Op) (s : State) :
    goto (loadPhase op) s = { s with ph := if op = .decrypt then 0x08#5 else 0x07#5 } := by cases op <;> rfl

section Validate

variable {s : State} {d : Descriptor} {w : WordSize}

theorem validate_of_bad_word_size (hd : s.desc = some d) (hw : wordSizeOf d.wReq.toInt = none) :
    exec .validate s = .next { s with kind := some .wordSize, ph := 0x17#5 } := by
  refine (need_of_eq hd).trans ?_
  rw [hw]
  exact raise_eq .wordSize s

/-- With a word size accepted, what is left of `VALIDATE` are the two checks and the latching. -/
theorem validate_of_word_size (hd : s.desc = some d) (hw : wordSizeOf d.wReq.toInt = some w) :
    exec .validate s =
      if roundsOk d.rReq.toInt then
        if keyLenOk d.bIn.toNat then
          need .keyLatch (takeExact d.key d.bIn.toNat) fun bytes =>
            .next (goto (loadPhase d.op)
              { s with
                w := some w, r := some d.rReq.toInt.toNat, blen := some d.bIn.toNat, key := writeBytes s.key 0 bytes })
        else raise .keyLen s
      else raise .rounds s := by
  refine (need_of_eq hd).trans ?_
  rw [hw]

theorem validate_of_bad_rounds (hd : s.desc = some d) (hw : wordSizeOf d.wReq.toInt = some w)
    (hr : ¬roundsOk d.rReq.toInt = true) : exec .validate s = .next { s with kind := some .rounds, ph := 0x17#5 } :=
  (validate_of_word_size hd hw).trans (if_neg hr)

theorem validate_of_bad_key_length (hd : s.desc = some d) (hw : wordSizeOf d.wReq.toInt = some w)
    (hr : roundsOk d.rReq.toInt = true) (hb : ¬keyLenOk d.bIn.toNat = true) :
    exec .validate s = .next { s with kind := some .keyLen, ph := 0x17#5 } :=
  (validate_of_word_size hd hw).trans <| (if_pos hr).trans (if_neg hb)

theorem validate_of_accepted (hd : s.desc = some d) (hw : wordSizeOf d.wReq.toInt = some w)
    (hr : roundsOk d.rReq.toInt = true) (hb : keyLenOk d.bIn.toNat = true) (hkey : d.key.length = d.bIn.toNat) :
    exec .validate s = .next { s with
      w := some w, r := some d.rReq.toInt.toNat, blen := some d.bIn.toNat, key := writeBytes s.key 0 d.key,
      ph := if d.op = .decrypt then 0x08#5 else 0x07#5 } :=
  (validate_of_word_size hd hw).trans <| (if_pos hr).trans <| (if_pos hb).trans <|
    (need_of_eq (takeExact_of_length hkey)).trans <| congrArg Host.Outcome.next (goto_loadPhase ..)

end Validate

/-- Settles O11, branch by branch; a key whose length is accepted has been latched whole. -/
theorem validateChecksAndLatches : Obligations.ValidateChecksAndLatches := by
  intro s d hd hlatched
  refine ⟨fun hbad => validate_of_bad_word_size hd (wordSizeOf_of_unsupported hbad), fun w hbits => ?_⟩
  have hw : wordSizeOf d.wReq.toInt = some w := hbits ▸ wordSizeOf_bits w
  refine ⟨fun hr => validate_of_bad_rounds hd hw fun hok => ?_, fun hr0 hr255 => ?_⟩
  · obtain ⟨hr0, hr255⟩ := roundsOk_iff.1 hok
    omega
  · have hr := roundsOk_iff.2 ⟨hr0, hr255⟩
    refine ⟨fun hb => validate_of_bad_key_length hd hw hr fun hok => ?_, fun hb => ?_⟩
    · exact absurd (keyLenOk_iff.1 hok) (Nat.not_le.2 hb)
    · have hkey : d.key.length = d.bIn.toNat := hlatched.trans (min_eq_left hb)
      obtain ⟨hout, hin⟩ := writeBytes_zero s.key d.key
      rw [hkey] at hout hin
      exact ⟨_, validate_of_accepted hd hw hr (keyLenOk_iff.2 hb) hkey, hin, hout⟩

/-! ### `KSEL` -/

/-- Settles O12, for each word size by its pair in `MAGIC`. -/
theorem kselReadsMagic : Obligations.KselReadsMagic := by
  intro s w hw
  refine (need_of_eq hw).trans ?_
  cases w <;> rfl

end Sys2Proof.Machine
end

section
/-! PROOFS. The key schedule engine, one micro-operation at a time (R135 to R140), and the schedule that `KEXP` derives
(R141, R143, R145). -/

namespace Sys2Proof.Machine

/-! ### `KPACK` -/

/-- `c` is the least number of words that hold `max(b, 1)` bytes (R8). -/
theorem keyWords_le_iff {w : WordSize} {b n : Nat} : keyWords w b ≤ n ↔ max b 1 ≤ n * wordBytes w := by
  rw [keyWords, ← Nat.add_sub_assoc (wordBytes_pos w), ← Nat.ceilDiv_eq_add_pred_div,
    ceilDiv_le_iff_le_mul (wordBytes_pos w), mul_comm]

/-- Word `j` of the packed key is the little-endian sum of its `u` bytes (R23, R135). -/
theorem packKey_getElem? {w : WordSize} {key : List Byte} {j : Nat} (hj : j < keyWords w key.length) :
    (packKey w key)[j]? =
      some (∑ k ∈ Finset.range (wordBytes w), (key.getD (j * wordBytes w + k) 0#8).toNat * 256 ^ k) := by
  rw [packKey, List.getElem?_map, List.getElem?_range hj, Option.map_some, leWord_eq_sum, List.length_map,
    List.length_range]
  refine congrArg some (Finset.sum_congr rfl fun k hk => ?_)
  rw [List.getD_eq_getElem?_getD, List.getElem?_map, List.getElem?_range (Finset.mem_range.1 hk)]
  rfl

/-- A byte of what was read from 0 on, zero from the end on. -/
theorem toNat_getD_of_readBytes {m : Memory} {bytes : List Byte} (h : readBytes m 0 bytes.length = some bytes) (k : Nat) :
    (bytes.getD k 0#8).toNat = if k < bytes.length then ((Memory.read m k).getD 0#8).toNat else 0 := by
  split
  · rw [holds_iff.1 h k ‹_›, List.getD_eq_getElem?_getD]
  · rw [List.getD_eq_default _ _ (Nat.le_of_not_lt ‹_›)]
    rfl

/-- Settles O13: the key bytes are read whole and packed, with zero for the bytes beyond them. -/
theorem kpackPacksLittleEndian : Obligations.KpackPacksLittleEndian := by
  intro s w b hw hb hkey
  obtain ⟨bytes, hbytes, rfl⟩ := readBytes_of_filled hkey
  have hpos := keyWords_pos w bytes.length
  refine ⟨packKey w bytes, (need_of_eq hw).trans <| (need_of_eq hb).trans <| need_of_eq hbytes, ?_⟩
  rw [packKey_length]
  refine ⟨?_, keyWords_le_iff.1 le_rfl, fun j hj => ?_⟩
  · exact Nat.lt_of_not_le fun hfits => absurd (keyWords_le_iff.2 hfits) (by omega)
  · rw [packKey_getElem? hj]
    simp only [toNat_getD_of_readBytes hbytes, wordBytes]

/-! ### `SINIT` and `KMIX0` -/

/-- The progression of R137 in closed form (R138). -/
theorem progression_getElem? {w : WordSize} (q : Nat) {n k x : Nat} (hk : k < n) (hx : x < 2 ^ w.bits) :
    (progression w q n x)[k]? = some ((x + k * q) % 2 ^ w.bits) := by
  induction n generalizing k x with
  | zero => omega
  | succ n ih =>
    cases k with
    | zero => rw [progression, List.getElem?_cons_zero, Nat.zero_mul, Nat.add_zero, Nat.mod_eq_of_lt hx]
    | succ k =>
      rw [progression, List.getElem?_cons_succ, ih (Nat.lt_of_succ_lt_succ hk) (addW_lt ..), addW, Nat.mod_add_mod,
        Nat.succ_mul, Nat.add_assoc, Nat.add_comm q]

/-- Settles O14, from the closed form of the progression. -/
theorem sinitClosedForm : Obligations.SinitClosedForm := fun _ w r p q hw hr hp hq hlt =>
  ⟨progression w q (scheduleLength r) p,
    (need_of_eq hw).trans <| (need_of_eq hr).trans <| (need_of_eq hp).trans <| need_of_eq hq,
    progression_length .., fun _ hk => progression_getElem? q hk hlt⟩

/-- Settles O15, by the meaning of `KMIX0`. -/
theorem kmix0Clears : Obligations.Kmix0Clears := fun _ => rfl

/-! ### `KMIX` -/

/-- Where R20 gives the rotator a value, it rotates the low `w` bits. -/
theorem rotWide_of_reduce_or_lt {c : Config} {w : WordSize} {y : Nat} (h : c.rotWide = .reduce ∨ y < 2 ^ w.bits) (n : Nat) :
    rotWide c w y n = rotl w (y % 2 ^ w.bits) n := by
  unfold rotWide
  split
  · rfl
  · have hy : y < 2 ^ w.bits := h.resolve_left (by simp [*])
    rw [if_pos hy, Nat.mod_eq_of_lt hy]

section

variable {s : State} {d : Descriptor} {w : WordSize} {len : Nat} (hd : s.desc = some d)
include hd

theorem afterSchedule_of_encrypts (he : d.op = .encrypt ∨ d.op = .encBytes) :
    afterSchedule s = .next { s with ph := 0x0A#5 } :=
  (need_of_eq hd).trans <| if_pos (encrypts_eq_true.2 he)

theorem afterSchedule_of_decrypts (he : d.op = .decrypt ∨ d.op = .decBytes) (hw : s.w = some w) (hlen : s.len = some len) :
    afterSchedule s =
      .next { s with ph := if len / blockBytes w = 0 then 0x13#5 else 0x0B#5, blk := some 0 } := by
  refine (need_of_eq hd).trans <| (if_neg (not_encrypts he)).trans <| (need_of_eq hw).trans <| (need_of_eq hlen).trans ?_
  have hblocks : afterBlocks d.op = .unpad := by obtain h | h := he <;> rw [h] <;> rfl
  rw [startBlocks, hblocks]
  split <;> rfl

/-- After an iteration of the key mix `PH` and `BLK` alone are left to be set: by the next iteration, or by what follows the
last one on either side (R100, R101, R141). -/
theorem after_mix_iteration (more : Prop) [Decidable more] (hw : s.w = some w) (hlen : s.len = some len) :
    ∃ ph blk,
      (if more then .next (goto .kmix s) else afterSchedule s) = Host.Outcome.next { s with ph := ph, blk := blk } ∧
      (more → ph = 0x06#5 ∧ blk = s.blk) ∧
      (¬more → (d.op = .encrypt ∨ d.op = .encBytes) → ph = 0x0A#5 ∧ blk = s.blk) ∧
      (¬more → (d.op = .decrypt ∨ d.op = .decBytes) →
        ph = (if len / blockBytes w = 0 then 0x13#5 else 0x0B#5) ∧ blk = some 0) := by
  by_cases hmore : more
  · exact ⟨_, _, if_pos hmore, fun _ => ⟨rfl, rfl⟩, fun h => absurd hmore h, fun h => absurd hmore h⟩
  · cases hop : encrypts d.op with
    | true =>
      exact ⟨_, _, (if_neg hmore).trans (afterSchedule_of_encrypts hd (encrypts_eq_true.1 hop)), fun h => absurd h hmore,
        fun _ _ => ⟨rfl, rfl⟩, fun _ he => absurd hop (not_encrypts he)⟩
    | false =>
      exact ⟨_, _, (if_neg hmore).trans (afterSchedule_of_decrypts hd (encrypts_eq_false.1 hop) hw hlen),
        fun h => absurd h hmore, fun _ he => absurd (encrypts_eq_true.2 he) (hop ▸ Bool.false_ne_true),
        fun _ _ => ⟨rfl, rfl⟩⟩

end

/-- Settles O16: with its operands found, `KMIX` writes the two words of R140 and then goes on or is done. -/
theorem kmixIteration : Obligations.KmixIteration := by
  intro s d w r b len ka kb i j n si lj hd hw hr hb hlen hka hkb hi hj hn hsi hlj
  let v := mixS s.cfg w si ka kb
  let q := mixL s.cfg w lj v kb
  obtain ⟨ph, blk, hnext, hfollows⟩ := after_mix_iteration hd (n + 1 < mixCount w r b) hw hlen (s := { s with
    sch := s.sch.set i v, l := s.l.set j q, ka := some v, kb := some q,
    i := some ((i + 1) % scheduleLength r), j := some ((j + 1) % keyWords w b), n := some (n + 1) })
  refine ⟨v, q, _, (need_of_eq hw).trans <| (need_of_eq hr).trans <| (need_of_eq hb).trans <| (need_of_eq hka).trans <|
    (need_of_eq hkb).trans <| (need_of_eq hi).trans <| (need_of_eq hj).trans <| (need_of_eq hn).trans <|
    (need_of_eq hsi).trans <| (need_of_eq hlj).trans hnext, ?_⟩
  exact ⟨mixS_lt .., mixL_lt .., fun h => rotWide_of_reduce_or_lt h _, fun h => rotWide_of_reduce_or_lt h _, rfl, hfollows⟩

/-! ### The schedule -/

theorem length_mixLoop (c : Config) (w : WordSize) (n : Nat) (x : Mix) : (mixLoop c w n x).s.length = x.s.length := by
  induction n generalizing x with
  | zero => rfl
  | succ n ih => exact (ih _).trans (List.length_set ..)

/-- Settles O17: the loop of `KEXP` keeps the length of the progression it starts from, and writes words. -/
theorem keyScheduleShape : Obligations.KeyScheduleShape := fun _ w r key hc =>
  ⟨(length_mixLoop ..).trans (progression_length ..), wordsBounded_keySchedule hc w r key⟩

/-- Zero bytes behind a list are what a read behind its end answers anyway. -/
theorem getD_append_zeros (key : List Byte) (z k : Nat) :
    (key ++ List.replicate z 0#8).getD k 0#8 = key.getD k 0#8 := by
  rcases Nat.lt_or_ge k key.length with hk | hk
  · exact List.getD_append _ _ _ _ hk
  · rw [List.getD_append_right _ _ _ _ hk, List.getD_eq_default _ _ hk, List.getD_eq_getElem?_getD,
      List.getElem?_getD_replicate_default_eq]

/-- A key is packed into the same words behind zero bytes that need no word of their own (R145). -/
theorem packKey_append_zeros {w : WordSize} {key : List Byte} {z : Nat}
    (h : keyWords w (key.length + z) = keyWords w key.length) : packKey w (key ++ List.replicate z 0#8) = packKey w key := by
  simp only [packKey, getD_append_zeros, List.length_append, List.length_replicate, h]

/-- Settles O18: `KEXP` depends on the packed key and on `c` alone. -/
theorem trailingZerosShareTheSchedule : Obligations.TrailingZerosShareTheSchedule := fun _ _ _ _ _ h => by
  refine ⟨packKey_append_zeros h, ?_⟩
  simp only [keySchedule, mixCount, packKey_append_zeros h, List.length_append, List.length_replicate, h]

end Sys2Proof.Machine
end

section
/-! PROOFS. The block datapath of the encrypt side, one micro-operation at a time (R156 to R158, R160), and the load and the
store of a block in either direction (R155, R159, R62). -/

namespace Sys2Proof.Machine

/-! ### Where a loop goes on -/

theorem goto_of_phaseCode {i : Instr} {p : BitVec 5} (h : phaseCode i = some p) (s : State) : goto i s = { s with ph := p } := by
  rw [goto, h]

/-- Where the next micro-operation depends on a loop counter, so does only the value of `PH`. -/
theorem goto_ite {c : Prop} [Decidable c] {i j : Instr} {p q : BitVec 5} (hi : phaseCode i = some p)
    (hj : phaseCode j = some q) (s : State) : goto (if c then i else j) s = { s with ph := if c then p else q } := by
  split
  · exact goto_of_phaseCode hi s
  · exact goto_of_phaseCode hj s

theorem phaseCode_afterBlocks (op : Op) : phaseCode (afterBlocks op) = some (lastPhase op) := by cases op <;> rfl

/-- The end of a pass of the block loop, by the state it leaves (R163, R176). -/
theorem nextBlock_eq (op : Op) (w : WordSize) (len blk : Nat) (s : State) :
    nextBlock op w len blk s =
      { s with blk := some (blk + 1), ph := if blk + 1 < len / blockBytes w then 0x0B#5 else lastPhase op } :=
  goto_ite rfl (phaseCode_afterBlocks op) _

/-! ### The rounds -/

/-- Settles O23: with its operands found, `ENC0` adds, and the rounds begin unless there is none. -/
theorem enc0AddsTheFirstWords : Obligations.Enc0AddsTheFirstWords := fun _ _ _ _ _ _ _ hw hr ha hb h0 h1 =>
  (need_of_eq hw).trans <| (need_of_eq hr).trans <| (need_of_eq ha).trans <| (need_of_eq hb).trans <|
    (need_of_eq h0).trans <| (need_of_eq h1).trans <| congrArg Host.Outcome.next (goto_ite rfl rfl _)

/-- Settles O24: with its operands found, `ENCA` is the half-round of R157. -/
theorem encaUpdatesA : Obligations.EncaUpdatesA := fun _ _ _ _ _ _ hw ha hb hrc hk =>
  (need_of_eq hw).trans <| (need_of_eq ha).trans <| (need_of_eq hb).trans <| (need_of_eq hrc).trans <| need_of_eq hk

/-- Settles O25: with its operands found, `ENCB` is the half-round of R158, and the next round begins while there is one. -/
theorem encbUpdatesB : Obligations.EncbUpdatesB := fun _ _ _ _ _ _ _ hw hr ha hb hrc hk =>
  (need_of_eq hw).trans <| (need_of_eq hr).trans <| (need_of_eq ha).trans <| (need_of_eq hb).trans <|
    (need_of_eq hrc).trans <| (need_of_eq hk).trans <| congrArg Host.Outcome.next (goto_ite rfl rfl _)

/-! ### The load of a block -/

/-- `MemRead` of bytes that are known (R13, R23). -/
theorem memRead_of_bytes {m : Memory} {a n : Nat} {xs : List Byte} (hlen : xs.length = n)
    (hread : ∀ k, k < n → Memory.read m (a + k) = xs[k]?) : memRead m a n = some (leWord xs) := by
  rw [memRead, readBytes_eq_some.2 ⟨hlen, hread⟩, Option.map_some]

/-- With its operands and the bytes of the block found, `BLKLD` puts the two words into `A` and `B`, and the direction decides
what follows (R155, R160, R173). -/
theorem blkld_of_words {s : State} {d : Descriptor} {w : WordSize} {len blk a b : Nat} (hd : s.desc = some d)
    (hw : s.w = some w) (hlen : s.len = some len) (hblk : s.blk = some blk) (hin : blk * blockBytes w + blockBytes w ≤ len)
    (ha : memRead s.buf (blk * blockBytes w) (wordBytes w) = some a)
    (hb : memRead s.buf (blk * blockBytes w + wordBytes w) (wordBytes w) = some b) :
    exec .blkld s =
      if encrypts d.op then .next { s with a := some a, b := some b, ph := 0x0C#5 }
      else need .r s.r fun r =>
        .next { s with a := some a, b := some b, rc := some r, ph := if r = 0 then 0x12#5 else 0x10#5 } := by
  refine (need_of_eq hd).trans <| (need_of_eq hw).trans <| (need_of_eq hlen).trans <| (need_of_eq hblk).trans <|
    (if_pos (decide_eq_true hin)).trans <| (need_of_eq ha).trans <| (need_of_eq hb).trans ?_
  simp only [goto_ite (i := .dec0) (j := .decb) rfl rfl]
  rfl

/-- Settles O22: the two half-blocks are read as words, and the first micro-operation of either direction follows. -/
theorem blkldLoadsTheBlock : Obligations.BlkldLoadsTheBlock := by
  intro s d w r len blk xa xb hd hw hr hlen hblk hin hxa hxb hreadA hreadB
  have hload := blkld_of_words hd hw hlen hblk hin (memRead_of_bytes hxa hreadA) (memRead_of_bytes hxb hreadB)
  refine ⟨fun hop => hload.trans ?_, fun hop => hload.trans ?_⟩
  · exact if_pos (encrypts_eq_true.2 hop)
  · exact (if_neg (not_encrypts hop)).trans (need_of_eq hr)

/-! ### The store of a block -/

/-- Inside what `MemWrite` wrote stand the bytes of the word (R13, R24). -/
theorem read_memWrite_inside (m : Memory) (a x : Nat) {n k : Nat} (hk : k < n) :
    Memory.read (memWrite m a n x) (a + k) = some (BitVec.ofNat 8 (x / 256 ^ k)) := by
  rw [memWrite, read_writeBytes_inside _ _ _ _ (by rwa [leBytes_length]), leBytes_getElem? _ _ _ hk]

/-- Outside the bytes written `MemWrite` changes nothing (R13). -/
theorem sameOutside_memWrite (m : Memory) (a n x : Nat) : SameOutside m (memWrite m a n x) a n := fun k hk =>
  read_writeBytes_outside m a k _ (by rwa [leBytes_length])

/-- The two halves of a block, stored one after the other: neither store touches the other's bytes, and both together only
those of the block (R62, R159). -/
theorem read_storedBlock (m : Memory) (o u a b : Nat) :
    (∀ k, k < u →
      Memory.read (memWrite (memWrite m o u a) (o + u) u b) (o + k) = some (BitVec.ofNat 8 (a / 256 ^ k)) ∧
      Memory.read (memWrite (memWrite m o u a) (o + u) u b) (o + u + k) = some (BitVec.ofNat 8 (b / 256 ^ k))) ∧
    SameOutside m (memWrite (memWrite m o u a) (o + u) u b) o (u + u) := by
  refine ⟨fun k hk => ⟨?_, read_memWrite_inside _ _ _ hk⟩, fun k hk => ?_⟩
  · rw [sameOutside_memWrite _ _ _ _ _ (.inl (by omega)), read_memWrite_inside _ _ _ hk]
  · rw [sameOutside_memWrite _ _ _ _ _ (by omega), sameOutside_memWrite _ _ _ _ _ (by omega)]

/-- Settles O26: `BLKST` stores the two halves of the block and ends the pass of the loop. -/
theorem blkstStoresTheBlock : Obligations.BlkstStoresTheBlock := by
  intro s d w len blk a b hd hw hlen hblk ha hb hin
  have hstored := read_storedBlock s.buf (blk * blockBytes w) (wordBytes w) a b
  rw [← blockBytes_eq] at hstored
  exact ⟨_, (need_of_eq hd).trans <| (need_of_eq hw).trans <| (need_of_eq hlen).trans <| (need_of_eq hblk).trans <|
    (need_of_eq ha).trans <| (need_of_eq hb).trans <| (if_pos (decide_eq_true hin)).trans <|
    congrArg Host.Outcome.next (nextBlock_eq ..), hstored⟩

end Sys2Proof.Machine
end

section
/-! PROOFS. The block datapath of the decrypt side: its micro-operations (R170 to R173), and the half of R177 in which encryption
undoes decryption. -/

namespace Sys2Proof.Machine

/-! ### The rounds undone -/

/-- Settles O27: with its operands found, `DECB` is the half-round of R170. -/
theorem decbUndoesB : Obligations.DecbUndoesB := fun _ _ _ _ _ _ hw ha hb hrc hk =>
  (need_of_eq hw).trans <| (need_of_eq ha).trans <| (need_of_eq hb).trans <| (need_of_eq hrc).trans <| need_of_eq hk

/-- Settles O28: with its operands found, `DECA` is the half-round of R171, and the next round follows while one is left. -/
theorem decaUndoesA : Obligations.DecaUndoesA := fun _ _ _ _ _ _ hw ha hb hrc hk =>
  (need_of_eq hw).trans <| (need_of_eq ha).trans <| (need_of_eq hb).trans <| (need_of_eq hrc).trans <|
    (need_of_eq hk).trans <| congrArg Host.Outcome.next (goto_ite rfl rfl _)

/-- Settles O29: with its operands found, `DEC0` subtracts, and the block is stored. -/
theorem dec0SubtractsTheFirstWords : Obligations.Dec0SubtractsTheFirstWords := fun _ _ _ _ _ _ hw ha hb h0 h1 =>
  (need_of_eq hw).trans <| (need_of_eq ha).trans <| (need_of_eq hb).trans <| (need_of_eq h0).trans <| need_of_eq h1

/-! ### The block round trip (R177) -/

variable {w : WordSize} {sch : List Nat} {x : Nat × Nat}

/-- A half-round is undone in the reverse order of its steps: the xor, the rotation, the addition. -/
theorem encHalf_decHalf {x key : Nat} (hx : x < 2 ^ w.bits) (hk : key < 2 ^ w.bits) (other : Nat) :
    encHalf w (decHalf w x other key) other key = x := by
  rw [encHalf, decHalf, xorW_xorW, rotl_rotr (subW_lt ..) (amount_lt w other).le, addW_subW hx hk]

theorem encRound_decRound (hsch : wordsBounded w sch) (i : Nat) (hx : areWords w x) :
    encRound w sch i (decRound w sch i x) = x := by
  obtain ⟨ha, hb⟩ := hx
  simp only [encRound, decRound, encHalf_decHalf ha (getD_lt hsch _), encHalf_decHalf hb (getD_lt hsch _)]

theorem areWords_decRound (sch : List Nat) (i : Nat) (hx : areWords w x) : areWords w (decRound w sch i x) :=
  have hb := decHalf_lt x.2 x.1 (sch.getD (2 * i + 1) 0) hx.1
  ⟨decHalf_lt _ _ _ hb, hb⟩

theorem areWords_decRounds (sch : List Nat) (r : Nat) (hx : areWords w x) : areWords w (decRounds w sch r x) := by
  induction r generalizing x with
  | zero => exact hx
  | succ r ih => exact ih (areWords_decRound sch (r + 1) hx)

theorem encRounds_decRounds (hsch : wordsBounded w sch) (r : Nat) (hx : areWords w x) :
    encRounds w sch r (decRounds w sch r x) = x := by
  induction r generalizing x with
  | zero => rfl
  | succ r ih => rw [encRounds, decRounds, ih (areWords_decRound sch (r + 1) hx), encRound_decRound hsch _ hx]

theorem encBlock_decBlock (hsch : wordsBounded w sch) (r : Nat) (hx : areWords w x) :
    encBlock w r sch (decBlock w r sch x) = x := by
  obtain ⟨ha, hb⟩ := areWords_decRounds sch r hx
  rw [encBlock, decBlock, addW_subW ha (getD_lt hsch _), addW_subW hb (getD_lt hsch _)]
  exact encRounds_decRounds hsch r hx

/-- Settles O43: each transform runs the other's steps backwards, and every intermediate value is a word. -/
theorem blockRoundTrip : Obligations.BlockRoundTrip := fun _ r _ _ _ _ hsch ha hb =>
  ⟨decBlock_encBlock hsch r ⟨ha, hb⟩, encBlock_decBlock hsch r ⟨ha, hb⟩⟩

end Sys2Proof.Machine
end

section
/-! PROOFS. The padding unit (R185 to R191): the whole next state of `PAD` and of `UNPAD`, the length that `PAD` reaches, and what
`UNPAD` makes of the output of `PAD`. -/

namespace Sys2Proof.Machine

variable {s : State} {d : Descriptor} {w : WordSize} {len : Nat}

/-! ### `PAD` -/

/-- The start of the block loop, by the state it leaves (R163). -/
theorem startBlocks_state (op : Op) (w : WordSize) (len : Nat) (s : State) :
    startBlocks op w len s =
      { s with blk := some 0, ph := if len / blockBytes w = 0 then lastPhase op else 0x0B#5 } :=
  goto_ite (phaseCode_afterBlocks op) rfl _

/-- With its operands and the room found, `PAD` appends its bytes, and the block loop begins (R185, R163). -/
theorem pad_of_room (hd : s.desc = some d) (hw : s.w = some w) (hlen : s.len = some len) {p : Nat}
    (hp : padCount (blockBytes w) len = p) (hroom : fits s.cfg.bufCap (len + p) = true) :
    exec .pad s = .next { s with
      buf := writeBytes s.buf len (List.replicate p (BitVec.ofNat 8 p)), len := some (len + p), blk := some 0,
      ph := if (len + p) / blockBytes w = 0 then lastPhase d.op else 0x0B#5 } := by
  subst hp
  exact (need_of_eq hd).trans <| (need_of_eq hw).trans <| (need_of_eq hlen).trans <| (if_pos hroom).trans <|
    congrArg Host.Outcome.next (startBlocks_state d.op w _ _)

/-- Settles O30: `PAD` appends the bytes R185 counts, and a write of `p` equal bytes leaves the others as they were. -/
theorem padFillsTheLastBlock : Obligations.PadFillsTheLastBlock := by
  intro s d w len hd hw hlen bs p hroom
  refine ⟨_, pad_of_room hd hw hlen (padCount_eq w len) (fits_iff.2 hroom), fun k hk => ?_, fun k hk => ?_⟩
  · rw [read_writeBytes_inside _ _ _ _ (by rwa [List.length_replicate]), List.getElem?_replicate_of_lt hk]
  · exact read_writeBytes_outside _ _ _ _ (by rwa [List.length_replicate])

/-- `PAD` goes to the next multiple of `bs`, which for a multiple is itself (R187). -/
theorem add_padCount_eq (w : WordSize) (n : Nat) :
    n + padCount (blockBytes w) n = (n + blockBytes w - 1) / blockBytes w * blockBytes w := by
  have hpos := blockBytes_pos w
  have hp := padCount_le w n
  obtain ⟨k, hk⟩ := Nat.dvd_of_mod_eq_zero (add_padCount_mod w n)
  rw [Nat.mul_comm] at hk
  have hceil : (n + blockBytes w - 1) / blockBytes w = k := by
    refine Nat.div_eq_of_lt_le (by omega) ?_
    rw [Nat.succ_mul]
    omega
  rw [hceil, hk]

theorem length_padBytes_mod (w : WordSize) (xs : List Byte) : (padBytes (blockBytes w) xs).length % blockBytes w = 0 := by
  rw [padBytes_length, add_padCount_mod]

/-- Settles O31: the padded length is a multiple of `bs`, so padding again appends nothing. -/
theorem padReachesTheNextBoundary : Obligations.PadReachesTheNextBoundary := by
  intro w xs
  have hlen := padBytes_length (blockBytes w) xs
  refine ⟨length_padBytes_mod w xs, hlen.trans (add_padCount_eq w _), List.take_left, ?_,
    padBytes_of_aligned (length_padBytes_mod w xs)⟩
  exact (Nat.sub_eq_of_eq_add' hlen).trans_le (padCount_le w _)

/-! ### `UNPAD` -/

/-- A byte outside `1 .. bs` is not taken for padding (R188). -/
theorem unpadCount_of_outside {q : Nat} (h : q = 0 ∨ blockBytes w < q) (len : Nat) : unpadCount (blockBytes w) len q = 0 :=
  if_neg fun ⟨hpos, hle, _⟩ => by omega

/-- A byte of `1 .. bs` is taken for the number of padding bytes, of which a buffer of whole blocks has enough (R188, R190). -/
theorem unpadCount_of_inside {q : Nat} (hlen : 0 < len) (haligned : len % blockBytes w = 0) (hpos : 1 ≤ q)
    (hle : q ≤ blockBytes w) : unpadCount (blockBytes w) len q = q :=
  if_pos ⟨hpos, hle, hle.trans (Nat.le_of_dvd hlen (Nat.dvd_of_mod_eq_zero haligned))⟩

theorem unpad_of_empty (hw : s.w = some w) (hlen : s.len = some 0) : exec .unpad s = .next { s with ph := 0x15#5 } :=
  (need_of_eq hw).trans <| (need_of_eq hlen).trans <| if_pos rfl

/-- With its operands and the trailing byte found, `UNPAD` makes `LEN` smaller by what that byte says (R188). -/
theorem unpad_of_last (hw : s.w = some w) (hlen : s.len = some len) (hpos : 0 < len) {q : Byte}
    (hq : Memory.read s.buf (len - 1) = some q) {n : Nat} (hn : unpadCount (blockBytes w) len q.toNat = n) :
    exec .unpad s = .next { s with len := some (len - n), ph := 0x15#5 } := by
  subst hn
  exact (need_of_eq hw).trans <| (need_of_eq hlen).trans <| (if_neg hpos.ne').trans <| need_of_eq hq

/-- Settles O32: the empty buffer stays, and of whole blocks the trailing byte alone decides how many bytes go. -/
theorem unpadIsLenient : Obligations.UnpadIsLenient := by
  intro s w len hw hlen
  refine ⟨fun h => unpad_of_empty hw (h ▸ hlen), fun q hpos hq haligned => ⟨fun h1 hle => ?_, fun hout => ?_⟩⟩
  · exact unpad_of_last hw hlen hpos hq (unpadCount_of_inside hpos haligned h1 hle)
  · rw [unpad_of_last hw hlen hpos hq (unpadCount_of_outside hout len), Nat.sub_zero, ← hlen]

/-- Settles O33: what `PAD` put on is taken off, and where it put nothing on, the last byte of the data decides. -/
theorem unpadAfterPad : Obligations.UnpadAfterPad := by
  intro w xs
  refine ⟨fun h => ?_, fun q haligned hq => ?_⟩
  · obtain hrest | rfl := h
    · exact unpadBytes_padBytes hrest
    · exact congrArg (unpadBytes _) (padBytes_of_aligned (Nat.zero_mod _))
  · have hlen : 0 < xs.length := List.length_pos_of_mem (List.mem_of_getLast? hq)
    have hunpad := (congrArg (unpadBytes (blockBytes w)) (padBytes_of_aligned haligned)).trans (unpadBytes_of_getLast hq)
    refine ⟨fun hout => hunpad.trans ?_, fun h1 hle => hunpad.trans ?_⟩
    · rw [unpadCount_of_outside hout, Nat.sub_zero, List.take_length]
    · rw [unpadCount_of_inside hlen haligned h1 hle]

end Sys2Proof.Machine
end

section
/-! PROOFS. The hexadecimal adapter (R195 to R199): the table of digits, strings of digits two by two, and the two
micro-operations by the whole next state of each of their branches. -/

namespace Sys2Proof.Machine

/-! ### The digit table (R197) -/

/-- The codes of the digit `v`: one below ten, above that an upper-case and, where admitted, a lower-case one (R197). -/
theorem hexVal_eq_some {case : HexInCase} {ch : Byte} {v : Nat} :
    hexVal case ch = some v ↔
      v < 10 ∧ ch.toNat = 0x30 + v ∨ 10 ≤ v ∧ v < 16 ∧ ch.toNat = 0x37 + v ∨
        case = .both ∧ 10 ≤ v ∧ v < 16 ∧ ch.toNat = 0x57 + v := by
  simp only [hexVal, Bool.and_eq_true, decide_eq_true_eq]
  split_ifs
  · rw [Option.some.injEq]; omega
  · rw [Option.some.injEq]; omega
  · cases case with
    | both => simp only [Option.some.injEq, true_and]; omega
    | upper => simp only [reduceCtorEq, false_and, or_false, false_iff]; omega
  · simp only [false_iff]; omega

theorem hexDigit_toNat {v : Nat} (hv : v < 16) : (hexDigit v).toNat = if v < 10 then 0x30 + v else 0x37 + v := by
  rw [hexDigit]
  split <;> rw [BitVec.toNat_ofNat] <;> omega

theorem isSome_hexVal_upper (ch : Byte) :
    (hexVal .upper ch).isSome = true ↔
      (0x30 ≤ ch.toNat ∧ ch.toNat ≤ 0x39) ∨ (0x41 ≤ ch.toNat ∧ ch.toNat ≤ 0x46) := by
  simp only [Option.isSome_iff_exists, hexVal_eq_some, reduceCtorEq, false_and, or_false]
  refine ⟨fun ⟨v, hv⟩ => by omega, fun h => ?_⟩
  obtain h | h := h
  · exact ⟨ch.toNat - 0x30, by omega⟩
  · exact ⟨ch.toNat - 0x37, by omega⟩

/-- Admitting lower case adds its six codes and no other. -/
theorem isSome_hexVal_both (ch : Byte) :
    (hexVal .both ch).isSome = true ↔
      (hexVal .upper ch).isSome = true ∨ (0x61 ≤ ch.toNat ∧ ch.toNat ≤ 0x66) := by
  simp only [Option.isSome_iff_exists, hexVal_eq_some, reduceCtorEq, false_and, or_false, true_and, ← or_assoc, exists_or]
  refine or_congr_right ⟨fun ⟨v, hv⟩ => by omega, fun h => ⟨ch.toNat - 0x57, by omega⟩⟩

/-- Settles O36, from the codes of each digit. -/
theorem hexDigitTable : Obligations.HexDigitTable := by
  refine ⟨by decide, fun v hv case => hexVal_hexDigit case hv, fun v hv => ?_, fun ch => ?_, isSome_hexVal_upper⟩
  · refine hexVal_eq_some.2 (.inr <| .inr ⟨rfl, ?_⟩)
    rw [BitVec.toNat_ofNat]
    omega
  · rw [isSome_hexVal_both, isSome_hexVal_upper, or_assoc]

/-! ### Strings of digits (R195, R198, R199) -/

/-- A letter `a` to `f` in upper case, every other code as it is (R199). -/
def upperDigit (ch : Byte) : Byte :=
  if 0x61 ≤ ch.toNat ∧ ch.toNat ≤ 0x66 then BitVec.ofNat 8 (ch.toNat - 0x20) else ch

theorem upperDigit_toNat (ch : Byte) :
    (upperDigit ch).toNat = if 0x61 ≤ ch.toNat ∧ ch.toNat ≤ 0x66 then ch.toNat - 0x20 else ch.toNat := by
  rw [upperDigit]
  split
  · rw [BitVec.toNat_ofNat]; omega
  · rfl

theorem hexVal_lt {case : HexInCase} {ch : Byte} {v : Nat} (h : hexVal case ch = some v) : v < 16 := by
  rw [hexVal_eq_some] at h
  omega

/-- The digit of a character's value is that character in upper case (R197, R199). -/
theorem hexDigit_of_hexVal {case : HexInCase} {ch : Byte} {v : Nat} (h : hexVal case ch = some v) :
    hexDigit v = upperDigit ch := by
  refine BitVec.eq_of_toNat_eq ?_
  rw [hexDigit_toNat (hexVal_lt h), upperDigit_toNat]
  rw [hexVal_eq_some] at h
  split_ifs <;> omega

/-- What decodes from two characters on: both are digits, and the rest decodes (R198). -/
theorem hexDecode_cons_cons {case : HexInCase} {x y : Byte} {rest ys : List Byte} :
    hexDecode case (x :: y :: rest) = some ys ↔
      ∃ hi lo bytes, hexVal case x = some hi ∧ hexVal case y = some lo ∧ hexDecode case rest = some bytes ∧
        BitVec.ofNat 8 (16 * hi + lo) :: bytes = ys := by
  rw [hexDecode]
  cases hexVal case x <;> cases hexVal case y <;> cases hexDecode case rest <;> simp

/-- The nibbles of a byte put together from two of them (R197). -/
theorem toNat_ofNibbles {hi lo : Nat} (hhi : hi < 16) (hlo : lo < 16) :
    (BitVec.ofNat 8 (16 * hi + lo)).toNat / 16 = hi ∧ (BitVec.ofNat 8 (16 * hi + lo)).toNat % 16 = lo := by
  rw [BitVec.toNat_ofNat]
  omega

/-- Encoding what a string decodes to upper-cases it, two characters at a time (R199). -/
theorem hexEncode_of_hexDecode {case : HexInCase} :
    ∀ {chars xs : List Byte}, hexDecode case chars = some xs → hexEncode xs = chars.map upperDigit
  | [], _, h => by cases h; rfl
  | [_], _, h => by cases h
  | x :: y :: rest, _, h => by
    obtain ⟨hi, lo, bytes, hx, hy, hrest, rfl⟩ := hexDecode_cons_cons.1 h
    obtain ⟨hhi, hlo⟩ := toNat_ofNibbles (hexVal_lt hx) (hexVal_lt hy)
    rw [hexEncode, hhi, hlo, hexDigit_of_hexVal hx, hexDigit_of_hexVal hy, hexEncode_of_hexDecode hrest, List.map_cons,
      List.map_cons]

/-- Settles O37, in both directions. -/
theorem hexDecodeInvertsEncode : Obligations.HexDecodeInvertsEncode :=
  ⟨hexDecode_hexEncode, fun _ _ _ => hexEncode_of_hexDecode⟩

/-- Characters `2k` and `2k + 1` are the digits of byte `k`, high nibble first (R195, R196). -/
theorem hexEncode_getElem? (xs : List Byte) (k : Nat) :
    (hexEncode xs)[2 * k]? = xs[k]?.map (fun x => hexDigit (x.toNat / 16)) ∧
      (hexEncode xs)[2 * k + 1]? = xs[k]?.map (fun x => hexDigit (x.toNat % 16)) := by
  induction xs generalizing k with
  | nil => exact ⟨rfl, rfl⟩
  | cons x xs ih =>
    cases k with
    | zero => exact ⟨rfl, rfl⟩
    | succ k => exact ih k

/-- Byte `k` of a decoded string comes from its characters `2k` and `2k + 1` (R198). -/
theorem hexDecode_getElem? {case : HexInCase} {k hi lo : Nat} :
    ∀ {chars xs : List Byte}, hexDecode case chars = some xs → chars[2 * k]?.bind (hexVal case) = some hi →
      chars[2 * k + 1]?.bind (hexVal case) = some lo → xs[k]? = some (BitVec.ofNat 8 (16 * hi + lo)) := by
  induction k with
  | zero =>
    intro chars xs h hhi hlo
    match chars with
    | x :: y :: rest =>
      obtain ⟨hi', lo', bytes, hx, hy, hrest, rfl⟩ := hexDecode_cons_cons.1 h
      cases hx.symm.trans hhi
      cases hy.symm.trans hlo
      rfl
  | succ k ih =>
    intro chars xs h hhi hlo
    match chars with
    | x :: y :: rest =>
      obtain ⟨_, _, bytes, _, _, hrest, rfl⟩ := hexDecode_cons_cons.1 h
      exact ih hrest hhi hlo

/-! ### `HEXENC` -/

theorem hexenc_eq {s : State} {xs : List Byte} (hlen : s.len = some xs.length) (hbuf : holds s.buf xs)
    (hroom : fits (windowCap s.cfg .outmem) (2 * xs.length) = true) :
    exec .hexenc s = .next { s with
      outmem := writeBytes s.outmem 0 (hexEncode xs), olen := olenOf (hexEncode xs).length, ph := 0x16#5 } :=
  (need_of_eq hlen).trans <| (need_of_eq hbuf).trans <| if_pos ((hexEncode_length xs).symm ▸ hroom)

/-- Settles O34: two characters for each byte in the buffer, for which `OUTMEM` is large enough (R45). -/
theorem hexencWritesTheString : Obligations.HexencWritesTheString := by
  intro s len hlen hbuf hcap
  obtain ⟨xs, hxs, rfl⟩ := readBytes_of_filled hbuf
  obtain ⟨hout, hin⟩ := writeBytes_zero s.outmem (hexEncode xs)
  have hexec := hexenc_eq hlen hxs (fits_outmem (fits_iff.2 hcap))
  rw [hexEncode_length] at hout hin hexec
  refine ⟨_, _, hexec, olenOf_toNat, hout, fun k x hk hx => ?_⟩
  have hxk : xs[k]? = some x := (holds_iff.1 hxs k hk).symm.trans hx
  obtain ⟨hhigh, hlow⟩ := hexEncode_getElem? xs k
  rw [hin _ (by omega), hin _ (by omega), hhigh, hlow, hxk]
  exact ⟨rfl, rfl⟩

/-! ### `HEXDEC` -/

/-- What `HEXDEC` accepts as a hexadecimal string: neither of odd length nor with a character that is no digit (R198). -/
theorem hexString_iff {case : HexInCase} {n : Nat} {chars : List Byte} :
    (n % 2 = 0 && allDigits case chars) = true ↔ ¬(n % 2 ≠ 0 ∨ ∃ ch ∈ chars, hexVal case ch = none) := by
  rw [Bool.and_eq_true, decide_eq_true_eq, allDigits, List.all_eq_true, not_or, not_not]
  simp only [not_exists, not_and, Option.isSome_iff_ne_none, ne_eq]

section Hexdec

variable {s : State} {d : Descriptor} (hd : s.desc = some d)
include hd

theorem hexdec_of_bad_string (hbad : ¬(d.pIn.toNat % 2 = 0 && allDigits s.cfg.hexInCase d.payload) = true) :
    exec .hexdec s = .next { s with kind := some .hexFormat, ph := 0x17#5 } :=
  (need_of_eq hd).trans <| if_neg hbad

variable (hok : (d.pIn.toNat % 2 = 0 && allDigits s.cfg.hexInCase d.payload) = true)
include hok

theorem hexdec_of_unfit (hfit : ¬fits s.cfg.bufCap (d.pIn.toNat / 2) = true) :
    exec .hexdec s = .next { s with kind := some .arg, ph := 0x17#5 } :=
  (need_of_eq hd).trans <| (if_pos hok).trans <| if_neg hfit

theorem hexdec_of_fits (hfit : fits s.cfg.bufCap (d.pIn.toNat / 2) = true) (hlen : d.payload.length = d.pIn.toNat)
    {bytes : List Byte} (hdec : hexDecode s.cfg.hexInCase d.payload = some bytes) :
    exec .hexdec s = .next { s with
      buf := writeBytes s.buf 0 bytes, len := some (d.pIn.toNat / 2), ph := 0x09#5 } :=
  (need_of_eq hd).trans <| (if_pos hok).trans <| (if_pos hfit).trans <| (need_of_eq (takeExact_of_length hlen)).trans <|
    need_of_eq hdec

end Hexdec

/-- Settles O20, branch by branch; a string that fits the buffer has been latched whole. -/
theorem hexdecDecodesOrFails : Obligations.HexdecDecodesOrFails := by
  intro s d hd hlatched bad big
  refine ⟨fun hbad => hexdec_of_bad_string hd fun hok => hexString_iff.1 hok hbad, fun hgood hbig => ?_,
    fun hgood hsmall => ?_⟩
  · obtain ⟨cap, hcap, hgt⟩ := hbig
    exact hexdec_of_unfit hd (hexString_iff.2 hgood) fun hfit => absurd (fits_iff.1 hfit cap hcap) (Nat.not_le.2 hgt)
  · have hok := hexString_iff.2 hgood
    obtain ⟨heven, hdigits⟩ := Bool.and_eq_true_iff.1 hok
    have heven := of_decide_eq_true heven
    have hle (cap : Nat) (hcap : s.cfg.bufCap = some cap) : d.pIn.toNat / 2 ≤ cap :=
      Nat.le_of_not_lt fun hgt => hsmall ⟨cap, hcap, hgt⟩
    have hlen : d.payload.length = d.pIn.toNat := hlatched.trans <| payloadFit_eq fun cap hcap => by
      have := hle cap hcap
      omega
    obtain ⟨bytes, hdec, hbytes⟩ := hexDecode_of_allDigits s.cfg.hexInCase (d.pIn.toNat / 2) d.payload (by omega) hdigits
    obtain ⟨hout, hin⟩ := writeBytes_zero s.buf bytes
    rw [hbytes] at hout hin
    exact ⟨_, hexdec_of_fits hd hok (fits_iff.2 hle) hlen hdec, hout, fun k hi lo hk hhi hlo =>
      (hin k hk).trans (hexDecode_getElem? hdec hhi hlo)⟩

end Sys2Proof.Machine
end

section
/-! PROOFS. Every call ends (R253, R255): how many steps a call still takes at most, read off its next micro-operation and the
loop counters, and that each micro-operation lowers this number. -/

namespace Sys2Proof.Machine

variable {s : State} {d : Descriptor} {w : WordSize} {n : Nat}

/-! ### The steps left -/

/-- At most the steps of `k` passes of the block loop (R164) and of what follows the last one. -/
def loopSteps (k : Nat) : Nat := 513 * k + 3

/-- At most the steps from the key schedule's last iteration to the end, with `n` bytes loaded: `PAD` adds less than a block. -/
def loadedSteps (n : Nat) : Nat := loopSteps (n + 1) + 1

/-- The blocks after block `BLK` (R163, R176). -/
def laterBlocks (s : State) : Nat := s.w.elim 0 fun w => s.len.getD 0 / blockBytes w - (s.blk.getD 0 + 1)

/-- At most the steps to the end of the call where `i` is next; `R` counts as 255 and the key-mix iterations as the 1536 that
are the most there can be (R143). -/
def stepsFrom (s : State) : Instr → Nat
  | .encrypt | .decrypt | .encBytes | .decBytes | .idle => 0
  | .finish | .fail => 1
  | .hexenc | .storep => 2
  | .unpad => 3
  | .blkst => loopSteps (laterBlocks s) + 1
  | .dec0 => loopSteps (laterBlocks s) + 2
  | .deca => loopSteps (laterBlocks s) + (2 * s.rc.getD 0 + 1)
  | .decb => loopSteps (laterBlocks s) + (2 * s.rc.getD 0 + 2)
  | .encb => loopSteps (laterBlocks s) + 2 * (256 - s.rc.getD 0)
  | .enca => loopSteps (laterBlocks s) + (2 * (256 - s.rc.getD 0) + 1)
  | .enc0 => loopSteps (laterBlocks s) + 512
  | .blkld => loopSteps (laterBlocks s) + 513
  | .pad => loadedSteps (s.len.getD 0)
  | .kmix => loadedSteps (s.len.getD 0) + (1536 - s.n.getD 0)
  | .kmix0 => loadedSteps (s.len.getD 0) + 1537
  | .sinit => loadedSteps (s.len.getD 0) + 1538
  | .kpack => loadedSteps (s.len.getD 0) + 1539
  | .ksel => loadedSteps (s.len.getD 0) + 1540
  | .lenchk => loadedSteps (s.len.getD 0) + 1541
  | .loadp | .hexdec => loadedSteps (s.desc.elim 0 (·.pIn.toNat)) + 1542
  | .validate => loadedSteps (s.desc.elim 0 (·.pIn.toNat)) + 1543

/-- At most the steps to the end of the call. -/
def stepsLeft (s : State) : Nat :=
  match decodePhase s.ph with
  | .ok i => stepsFrom s i
  | .error _ => 0

theorem stepsLeft_of_phase {i : Instr} (h : decodePhase s.ph = .ok i) : stepsLeft s = stepsFrom s i := by
  simp only [stepsLeft, h]

/-- A register known to hold `v` is read as `v`. -/
theorem ensures_need_of_eq {α : Type} {P : State → Prop} {loc : Loc} {x : Option α} {v : α} {f : α → Result}
    (hx : x = some v) (h : Ensures (f v) P) : Ensures (need loc x f) P := by
  rwa [need_of_eq hx]

/-- `goto j` leaves as many steps as `j` has from there. -/
theorem ensures_goto_lt {j : Instr} (hj : (phaseCode j).isSome = true) (h : stepsFrom s j < n) :
    Ensures (.next (goto j s)) (stepsLeft · < n) :=
  (goesOn_goto hj fun p hp => by
    rw [stepsLeft_of_phase (s := { s with ph := p }) hp]
    cases j <;> exact h).ensures

/-- A failure leaves `FAIL` alone. -/
theorem ensures_raise_lt (e : FailKind) (h : 1 < n) : Ensures (raise e s) (stepsLeft · < n) := ensures_goto_lt rfl h

/-- A delivered result leaves `FINISH` alone. -/
theorem ensures_deliver_lt (out : List Byte) (h : 1 < n) : Ensures (deliver out s) (stepsLeft · < n) :=
  ensures_inSpace fun _ => ensures_goto_lt rfl h

/-! ### Sizes, and the block loop -/

theorem laterBlocks_eq {len blk : Nat} (hw : s.w = some w) (hlen : s.len = some len) (hblk : s.blk = some blk) :
    laterBlocks s = len / blockBytes w - (blk + 1) := by
  rw [laterBlocks, hw, hlen, hblk]
  rfl

/-- The key mix takes at most 1536 iterations (R143). -/
theorem mixCount_le {r b : Nat} (hr : r ≤ 255) (hb : b ≤ 255) : mixCount w r b ≤ 1536 := by
  have hkw : keyWords w b ≤ 512 := keyWords_le_iff.2 <| by
    have := wordBytes_pos w
    omega
  simp only [mixCount, scheduleLength]
  omega

/-- A padded payload has no more blocks than one more than its bytes. -/
theorem padded_blocks_le (w : WordSize) (len : Nat) : (len + padCount (blockBytes w) len) / blockBytes w ≤ len + 1 := by
  have hpad := padCount_le w len
  have hmul := Nat.le_mul_of_pos_right len (blockBytes_pos w)
  refine Nat.div_le_of_le_mul ?_
  rw [Nat.mul_comm, Nat.succ_mul]
  omega

theorem stepsFrom_afterBlocks_le (op : Op) (s : State) : stepsFrom s (afterBlocks op) ≤ 3 := by
  cases op with
  | encrypt | encBytes => exact Nat.le_succ 2
  | decrypt | decBytes => exact le_rfl

/-- Where block `blk` comes next, the passes of the loop from it on are left. -/
theorem block_lt {len blk : Nat} (op : Op) (hw : s.w = some w) (hlen : s.len = some len) (hblk : s.blk = some blk) :
    Ensures (.next (goto (if blk < len / blockBytes w then .blkld else afterBlocks op) s))
      (stepsLeft · < loopSteps (len / blockBytes w - blk) + 1) := by
  refine ensures_goto_lt (isSome_phaseCode_block _ op) ?_
  split
  · simp only [stepsFrom, laterBlocks_eq hw hlen hblk, loopSteps]
    omega
  · exact Nat.lt_succ_of_le <| (stepsFrom_afterBlocks_le op s).trans (Nat.le_add_left 3 _)

theorem startBlocks_lt {len : Nat} (op : Op) (hw : s.w = some w) (hlen : s.len = some len)
    (hn : len / blockBytes w ≤ n) : Ensures (.next (startBlocks op w len s)) (stepsLeft · < loopSteps n + 1) := by
  rw [startBlocks_eq]
  refine (block_lt (s := { s with blk := some 0 }) op hw hlen rfl).imp fun t ht => ?_
  simp only [loopSteps] at ht ⊢
  omega

/-! ### One lemma per micro-operation with a choice or a count -/

theorem validate_lowers (h : InCall s d) : Ensures (exec .validate s) (stepsLeft · < stepsFrom s .validate) := by
  have hraise (e : FailKind) : Ensures (raise e s) (stepsLeft · < stepsFrom s .validate) :=
    ensures_raise_lt e (Nat.le_add_left 2 _)
  refine ensures_need_of_eq h.desc ?_
  cases wordSizeOf d.wReq.toInt with
  | none => exact hraise _
  | some w =>
    refine ensures_ite (fun _ => ensures_ite (fun _ => ensures_need fun _ => ?_) fun _ => hraise _) fun _ => hraise _
    cases d.op <;> exact ensures_goto_lt rfl (Nat.lt_succ_self _)

theorem loadp_lowers (h : InCall s d) : Ensures (exec .loadp s) (stepsLeft · < stepsFrom s .loadp) := by
  refine ensures_need_of_eq h.desc <| ensures_need fun w => ensures_ite (fun _ => ensures_need fun bytes => ?_) fun _ =>
    ensures_raise_lt _ (Nat.le_add_left 2 _)
  simp only [stepsFrom, h.desc]
  cases d.op with
  | encrypt | encBytes => exact ensures_goto_lt (j := .ksel) rfl (Nat.lt_add_of_pos_right (k := 2) (by decide))
  | decrypt | decBytes => exact ensures_goto_lt (j := .lenchk) rfl (Nat.lt_succ_self _)

/-- Half as many bytes as characters are loaded (R198). -/
theorem hexdec_lowers (h : InCall s d) : Ensures (exec .hexdec s) (stepsLeft · < stepsFrom s .hexdec) := by
  have hraise (e : FailKind) : Ensures (raise e s) (stepsLeft · < stepsFrom s .hexdec) :=
    ensures_raise_lt e (Nat.le_add_left 2 _)
  refine ensures_need_of_eq h.desc <| ensures_ite (fun _ => ensures_ite (fun _ => ?_) fun _ => hraise _) fun _ => hraise _
  refine ensures_need fun _ => ensures_need fun _ => ensures_goto_lt rfl ?_
  simp only [stepsFrom, h.desc, Option.elim_some, Option.getD_some, loadedSteps, loopSteps]
  omega

/-- `PAD`, or the block loop, is within what the loaded bytes leave. -/
theorem afterSchedule_lowers {len : Nat} (hd : s.desc = some d) (hw : s.w = some w) (hlen : s.len = some len) :
    Ensures (afterSchedule s) (stepsLeft · < loadedSteps len + 1) := by
  refine ensures_need_of_eq hd <| ensures_ite (fun _ => ensures_goto_lt rfl ?_) fun _ => ?_
  · rw [stepsFrom, hlen]
    exact Nat.lt_succ_self _
  · have hblocks : len / blockBytes w ≤ len + 1 := (Nat.div_le_self ..).trans (Nat.le_succ len)
    refine ensures_need_of_eq hw <| ensures_need_of_eq hlen ?_
    exact (startBlocks_lt d.op hw hlen hblocks).imp fun t ht => ht.trans (Nat.lt_succ_self _)

theorem kmix_lowers (h : InCall s d) (hs : stage s d .kmix) : Ensures (exec .kmix s) (stepsLeft · < stepsFrom s .kmix) := by
  obtain ⟨w, r, b, len, ⟨hw, hr, hr255, hb, hb255, -⟩, ⟨hlen, -, -⟩, -, -, -, ka, kb, n, -, -, hn, -, -, hlt, -⟩ := hs
  have hmix := mixCount_le (w := w) hr255 hb255
  refine ensures_need_of_eq hw <| ensures_need_of_eq hr <| ensures_need_of_eq hb ?_
  iterate 4 refine ensures_need fun _ => ?_
  refine ensures_need_of_eq hn <| ensures_need fun _ => ensures_need fun _ => ensures_ite (fun _ => ?_) fun _ => ?_
  · refine ensures_goto_lt rfl ?_
    simp only [stepsFrom, hlen, hn, Option.getD_some]
    omega
  · refine Ensures.imp (afterSchedule_lowers h.desc hw hlen) fun t ht => ?_
    simp only [stepsFrom, hlen, hn, Option.getD_some]
    omega

theorem pad_lowers (hs : stage s d .pad) : Ensures (exec .pad s) (stepsLeft · < stepsFrom s .pad) := by
  obtain ⟨-, w, r, b, len, ⟨hw, -⟩, ⟨hlen, -, -⟩, -⟩ := hs
  refine ensures_need fun e => ensures_need_of_eq hw <| ensures_need_of_eq hlen <| ensures_inSpace fun _ => ?_
  rw [stepsFrom, hlen]
  exact startBlocks_lt e.op hw rfl (padded_blocks_le w len)

theorem blkld_lowers (hs : stage s d .blkld) : Ensures (exec .blkld s) (stepsLeft · < stepsFrom s .blkld) := by
  obtain ⟨w, r, b, len, ⟨-, hr, hr255, -⟩, -⟩ := hs
  iterate 4 refine ensures_need fun _ => ?_
  refine ensures_inSpace fun _ => ensures_need fun _ => ensures_need fun _ =>
    ensures_ite (fun _ => ensures_goto_lt rfl (Nat.lt_succ_self _)) fun _ => ensures_need_of_eq hr ?_
  split
  · exact ensures_goto_lt rfl (Nat.add_lt_add_left (by decide) _)
  · refine ensures_goto_lt rfl (Nat.add_lt_add_left ?_ _)
    rw [Option.getD_some]
    omega

theorem enc0_lowers : Ensures (exec .enc0 s) (stepsLeft · < stepsFrom s .enc0) := by
  refine ensures_need fun w => ensures_need fun r => ?_
  iterate 4 refine ensures_need fun _ => ?_
  split
  · exact ensures_goto_lt rfl (Nat.add_lt_add_left (show 1 < 512 by decide) _)
  · exact ensures_goto_lt rfl (Nat.add_lt_add_left (show 511 < 512 by decide) _)

theorem encb_lowers (hs : stage s d .encb) : Ensures (exec .encb s) (stepsLeft · < stepsFrom s .encb) := by
  obtain ⟨-, w, r, b, len, ⟨-, hr, hr255, -⟩, -, -, -, -, rc, hrc, -, hle⟩ := hs
  refine ensures_need fun _ => ensures_need_of_eq hr <| ensures_need fun _ => ensures_need fun _ =>
    ensures_need_of_eq hrc <| ensures_need fun _ => ?_
  rw [stepsFrom, hrc, Option.getD_some]
  split <;> refine ensures_goto_lt rfl (Nat.add_lt_add_left ?_ _)
  · rw [Option.getD_some]
    omega
  · omega

theorem deca_lowers (hs : stage s d .deca) : Ensures (exec .deca s) (stepsLeft · < stepsFrom s .deca) := by
  obtain ⟨-, w, r, b, len, -, -, -, -, -, rc, hrc, hpos, -⟩ := hs
  refine ensures_need fun _ => ensures_need fun _ => ensures_need fun _ => ensures_need_of_eq hrc <| ensures_need fun _ => ?_
  rw [stepsFrom, hrc, Option.getD_some]
  split <;> refine ensures_goto_lt rfl (Nat.add_lt_add_left ?_ _)
  · rw [Option.getD_some]
    omega
  · omega

theorem blkst_lowers (hs : stage s d .blkst) : Ensures (exec .blkst s) (stepsLeft · < stepsFrom s .blkst) := by
  obtain ⟨w, r, b, len, ⟨hw, -⟩, ⟨hlen, -, -⟩, -, ⟨-, blk, hblk, -⟩, -⟩ := hs
  refine ensures_need fun e => ensures_need_of_eq hw <| ensures_need_of_eq hlen <| ensures_need_of_eq hblk <|
    ensures_need fun _ => ensures_need fun _ => ensures_inSpace fun _ => ?_
  rw [stepsFrom, laterBlocks_eq hw hlen hblk]
  exact block_lt e.op hw hlen rfl

theorem unpad_lowers : Ensures (exec .unpad s) (stepsLeft · < stepsFrom s .unpad) := by
  refine ensures_need fun w => ensures_need fun len =>
    ensures_ite (fun _ => ensures_goto_lt rfl (Nat.lt_succ_self _)) fun _ => ?_
  exact ensures_need fun q => ensures_goto_lt rfl (Nat.lt_succ_self _)

/-! ### Every step of ENGINE during a call -/

/-- Every micro-operation of a call leaves fewer steps than there were before it. -/
theorem exec_lowers {i : Instr} (h : InCall s d) (hs : stage s d i) : Ensures (exec i s) (stepsLeft · < stepsFrom s i) := by
  cases i with
  | encrypt | decrypt | encBytes | decBytes | idle | fail => exact hs.elim
  | validate => exact validate_lowers h
  | loadp => exact loadp_lowers h
  | hexdec => exact hexdec_lowers h
  | lenchk =>
    exact ensures_need fun _ => ensures_need fun _ =>
      ensures_ite (fun _ => ensures_goto_lt rfl (Nat.lt_succ_self _)) fun _ => ensures_raise_lt _ (Nat.le_add_left 2 _)
  | kmix => exact kmix_lowers h hs
  | pad => exact pad_lowers hs
  | blkld => exact blkld_lowers hs
  | enc0 => exact enc0_lowers
  | encb => exact encb_lowers hs
  | blkst => exact blkst_lowers hs
  | deca => exact deca_lowers hs
  | unpad => exact unpad_lowers
  | ksel | kpack | sinit | kmix0 | enca | decb | dec0 =>
    repeat refine ensures_need fun _ => ?_
    exact ensures_goto_lt rfl (Nat.lt_succ_self _)
  | hexenc | storep => exact ensures_need fun _ => ensures_need fun _ => ensures_deliver_lt _ (Nat.lt_succ_self 1)
  | finish => exact ensures_next (Nat.succ_pos 0)

/-- What ENGINE runs during a call leaves fewer steps, `FAIL` as well. -/
theorem Inv.exec_lowers {i : Instr} (h : Inv s) (hp : decodePhase s.ph = .ok i) (hidle : i ≠ .idle) :
    Ensures (exec i s) (stepsLeft · < stepsFrom s i) := by
  by_cases hfail : i = .fail
  · subst hfail
    exact ensures_need fun _ => ensures_next (Nat.succ_pos 0)
  · obtain ⟨d, hc, hs⟩ := h.inCall hp hidle hfail
    exact Machine.exec_lowers hc hs

/-- ENGINE is at rest, or its step goes on, keeps the invariant and leaves fewer steps than before. -/
theorem Inv.rests_or_steps (h : Inv s) :
    Quiescent s ∨ GoesOn (engineStep s) fun t => Inv t ∧ t.host = s.host ∧ stepsLeft t < stepsLeft s := by
  obtain ⟨t, hst, ht⟩ := engineStep_keeps h
  cases hp : decodePhase s.ph with
  | error e => exact absurd h.phase (not_phaseInv_of_error hp)
  | ok i =>
    by_cases hidle : i = .idle
    · subst hidle
      have hph : s.ph = 0#5 := (Option.some.inj (phaseCode_of_decodePhase hp)).symm
      exact .inl ⟨hph, Bool.eq_false_of_not_eq_true fun hb => h.busyPhase.1 hb hph⟩
    · have he : exec i (tick s.busy.toNat s) = .next t := (engineStep_of_ok hp).symm.trans hst
      obtain ⟨-, -, -, -, -, -, -, hhost, -⟩ := exec_leaves_inputs he
      have hlt := (h.host_fresh s.host (s.fresh + s.busy.toNat)).exec_lowers hp hidle t he
      rw [stepsLeft_of_phase hp]
      exact .inr ⟨t, hst, ht, hhost, hlt⟩

/-! ### The whole call -/

/-- With no move of HOST to come, ENGINE comes to rest within the steps that are left. -/
theorem rests_within {s : State} (h : Inv s) (hh : s.host = []) :
    ∃ k t, k ≤ stepsLeft s ∧ Reaches k s t ∧ Quiescent t ∧ t.host = [] := by
  obtain hrest | ⟨u, hu, hinv, hhost, hlt⟩ := h.rests_or_steps
  · exact ⟨0, s, Nat.zero_le _, rfl, hrest, hh⟩
  · obtain ⟨k, t, hk, hr, hend⟩ := rests_within hinv (hhost.trans hh)
    exact ⟨k + 1, t, Nat.lt_of_le_of_lt hk hlt, reaches_succ.2 ⟨u, (step_of_host_nil hh).trans hu, hr⟩, hend⟩
termination_by stepsLeft s

/-- A `CMD` write while no call is in progress leaves at most the steps of a call. -/
theorem commandStep_le (v : BitVec 8) (hb : s.busy = false) :
    Ensures (commandStep v s) fun t => t.host = s.host ∧ stepsLeft t ≤ loadedSteps s.plenIn.toNat + 1543 := by
  rw [commandStep_eq]
  cases opOfCommand v with
  | none => exact ensures_of_eq (startCall_illegal (s := { s with cmd := some v }) hb) ⟨rfl, Nat.le_add_left 1 _⟩
  | some op => exact ensures_of_eq (startCall_command op (s := { s with cmd := some v }) hb) ⟨rfl, le_rfl⟩

/-- Settles O52: the first step starts the call, and from there on every step leaves fewer. -/
theorem everyCallEnds : Obligations.EveryCallEnds := by
  intro s v h hb hh
  have hidle : Inv (tick 1 { s with host := [] }) := h.host_fresh [] (s.fresh + 1)
  obtain ⟨u, hu, hinv⟩ := commandStep_keeps hidle v
  obtain ⟨hhost, hleft⟩ := commandStep_le (s := tick 1 { s with host := [] }) v hb u hu
  obtain ⟨k, t, hk, hr, hend⟩ := rests_within hinv hhost
  refine ⟨k + 1, t, ?_, reaches_succ.2 ⟨u, (step_of_host_cons hh).trans hu, hr⟩, hend⟩
  calc k + 1 ≤ loadedSteps s.plenIn.toNat + 1543 + 1 := Nat.succ_le_succ (hk.trans hleft)
    _ = 513 * (s.plenIn.toNat + 1) + 1548 := rfl
    _ ≤ 1600 + 513 * (s.plenIn.toNat + 1) := by omega

end Sys2Proof.Machine
end

section
/-! PROOFS. The two ends of a call and the micro-operations that raise nothing (R211, R212, R215, R218), the reset input and a
`CMD` write during a call (R90, R240, R248), and what is latched when a call starts (R243, R249). -/

namespace Sys2Proof.Machine

variable {s : State}

/-! ### The ends of a call -/

/-- Settles O38: what `finishCall` does, field by field. -/
theorem finishEndsTheCall : Obligations.FinishEndsTheCall := fun _ => rfl

/-- Settles O39: what `failCall` does on the kind handed over, field by field, with the code of each kind. -/
theorem failEndsTheCall : Obligations.FailEndsTheCall := fun s e he =>
  (need_of_eq he : exec .fail s = .next (failCall e s)).trans (by cases e <;> rfl)

/-! ### Micro-operations that raise nothing -/

/-- The micro-operations R212 names. -/
def raiseNothing : List Instr :=
  [.ksel, .kpack, .sinit, .kmix0, .kmix, .pad, .blkld, .enc0, .enca, .encb, .blkst, .decb, .deca, .dec0, .unpad, .hexenc,
    .storep, .finish]

/-- A micro-operation other than `FAIL`. -/
def offFail (i : Instr) : Bool := (phaseCode i).any (· ≠ 0x17#5)

theorem ensures_goto_off_fail {j : Instr} (hj : offFail j = true) : Ensures (.next (goto j s)) (·.ph ≠ 0x17#5) := by
  obtain ⟨p, hp, hne⟩ := (Option.any_eq_true ..).1 hj
  exact ensures_next (goto_ph hp s ▸ of_decide_eq_true hne)

theorem offFail_ite {more : Prop} [Decidable more] {i j : Instr} (hi : offFail i = true) (hj : offFail j = true) :
    offFail (if more then i else j) = true := by
  split
  · exact hi
  · exact hj

theorem offFail_afterBlocks (op : Op) : offFail (afterBlocks op) = true := by cases op <;> rfl

theorem afterSchedule_off_fail (s : State) : Ensures (afterSchedule s) (·.ph ≠ 0x17#5) :=
  ensures_need fun d => ensures_ite (fun _ => ensures_goto_off_fail rfl) fun _ => ensures_need fun _ => ensures_need fun _ =>
    ensures_goto_off_fail (offFail_ite (offFail_afterBlocks d.op) rfl)

theorem exec_off_fail {i : Instr} (hi : i ∈ raiseNothing) (s : State) : Ensures (exec i s) (·.ph ≠ 0x17#5) := by
  cases i with
  | encrypt | decrypt | encBytes | decBytes | idle | validate | loadp | hexdec | lenchk | fail => exact absurd hi (by decide)
  | ksel | kpack | sinit | kmix0 | enca | decb | dec0 =>
    repeat refine ensures_need fun _ => ?_
    exact ensures_goto_off_fail rfl
  | enc0 | encb | deca =>
    repeat refine ensures_need fun _ => ?_
    exact ensures_goto_off_fail (offFail_ite rfl rfl)
  | kmix =>
    iterate 10 refine ensures_need fun _ => ?_
    exact ensures_ite (fun _ => ensures_goto_off_fail rfl) fun _ => afterSchedule_off_fail _
  | pad =>
    refine ensures_need fun d => ensures_need fun _ => ensures_need fun _ => ensures_inSpace fun _ => ?_
    exact ensures_goto_off_fail (offFail_ite (offFail_afterBlocks d.op) rfl)
  | blkld =>
    iterate 4 refine ensures_need fun _ => ?_
    refine ensures_inSpace fun _ => ensures_need fun _ => ensures_need fun _ =>
      ensures_ite (fun _ => ensures_goto_off_fail rfl) fun _ => ?_
    exact ensures_need fun _ => ensures_goto_off_fail (offFail_ite rfl rfl)
  | blkst =>
    refine ensures_need fun d => ?_
    iterate 5 refine ensures_need fun _ => ?_
    exact ensures_inSpace fun _ => ensures_goto_off_fail (offFail_ite rfl (offFail_afterBlocks d.op))
  | unpad =>
    refine ensures_need fun _ => ensures_need fun _ => ensures_ite (fun _ => ensures_goto_off_fail rfl) fun _ => ?_
    exact ensures_need fun _ => ensures_goto_off_fail rfl
  | hexenc | storep =>
    exact ensures_need fun _ => ensures_need fun _ => ensures_inSpace fun _ => ensures_goto_off_fail rfl
  | finish => exact ensures_next (show 0x00#5 ≠ 0x17#5 by decide)

/-- None of them writes the failure kind, but that `FINISH` leaves none. -/
theorem exec_kind {i : Instr} (hi : i ∈ raiseNothing) (s : State) :
    Ensures (exec i s) fun t => t.kind = s.kind ∨ t.kind = none := by
  cases i with
  | finish => exact ensures_next (.inr rfl)
  | encrypt | decrypt | encBytes | decBytes | idle | validate | loadp | hexdec | lenchk | fail => exact absurd hi (by decide)
  | _ => exact (exec_writes _ s).imp fun t ht => .inl (ht ▸ rfl)

/-- Settles O55: none of them goes to `FAIL` or writes the kind. -/
theorem onlyTheNamedOnesRaise : Obligations.OnlyTheNamedOnesRaise := fun _ s t h hi =>
  ⟨exec_off_fail hi s t h, exec_kind hi s t h⟩

/-! ### The reset input, and `CMD` while `BUSY = 1` -/

/-- Settles O2: the step is `hostReset`. -/
theorem resetInputAbandonsTheCall : Obligations.ResetInputAbandonsTheCall := fun _ _ hh =>
  ⟨_, step_of_host_cons hh, rfl, rfl, rfl, rfl, rfl, rfl, rfl, rfl, rfl, rfl, rfl⟩

/-- Settles O9: every value is taken as the start of a call, which `BUSY` keeps from starting. -/
theorem commandWhileBusyIsIgnored : Obligations.CommandWhileBusyIsIgnored := fun _ _ _ hb hh =>
  (step_of_host_cons hh).trans <| (commandStep_eq _ _).trans <| startCall_of_busy _ hb

/-! ### Latching -/

/-- Under a bounded buffer as many payload bytes are latched as the window holds (R45, R249). -/
theorem payloadFit_of_bounded {c : Config} {cap : Nat} (hcap : c.bufCap = some cap) (n : Nat) :
    payloadFit c n = min n (2 * cap) := by
  simp only [payloadFit, windowCap, hcap, Option.map_some]

section Latch

variable {op : Op} {k : Nat} {v : Byte}

theorem length_latch_key : (latch op s).key.length = min s.klenIn.toNat 255 := windowBytes_length ..

theorem length_latch_payload : (latch op s).payload.length = payloadFit s.cfg s.plenIn.toNat := windowBytes_length ..

/-- A key byte that HOST wrote is latched as written (R249). -/
theorem latch_key_of_read (hk : k < (latch op s).key.length) (hv : Memory.read s.keymem k = some v) :
    (latch op s).key[k]? = some v := by
  have hbyte : windowByte s .keymem k = v := by simp only [windowByte, hv]
  rw [← hbyte]
  exact windowBytes_getElem? (length_latch_key ▸ hk)

/-- A payload byte that HOST wrote is latched as written (R249). -/
theorem latch_payload_of_read (hk : k < (latch op s).payload.length) (hv : Memory.read s.inmem k = some v) :
    (latch op s).payload[k]? = some v := by
  have hbyte : windowByte s .inmem k = v := by simp only [windowByte, hv]
  rw [← hbyte]
  exact windowBytes_getElem? (length_latch_payload ▸ hk)

end Latch

/-- Settles O10: what HOST wrote is latched, and by the invariant what HOST supplied is what it wrote. -/
theorem latchTakesTheDescriptor : Obligations.LatchTakesTheDescriptor := by
  intro s op
  refine ⟨rfl, rfl, rfl, rfl, rfl, length_latch_key, length_latch_payload.trans ?_,
    fun _ _ => latch_key_of_read, fun _ _ => latch_payload_of_read, fun h hidle hm => ?_⟩
  · cases hcap : s.cfg.bufCap with
    | none => exact payloadFit_eq fun cap hsome => nomatch hcap.symm.trans hsome
    | some cap => exact payloadFit_of_bounded hcap _
  obtain ⟨-, -, hstart⟩ := hm
  obtain ⟨⟨w, r, b, p, hw, hr, hb, hp⟩, hkey, hpay⟩ := hstart hidle
  obtain ⟨-, -, hwIn, hrIn, hklen, hplen, hkeymem, hinmem, -⟩ := h.supply
  refine ⟨hw.trans (congrArg some (hwIn w hw).symm), hr.trans (congrArg some (hrIn r hr).symm),
    hb.trans (congrArg some (hklen b hb).symm), hp.trans (congrArg some (hplen p hp).symm), fun hle k hk => ?_, fun k hk => ?_⟩
  · have hsup := hkey hle k hk
    obtain ⟨v, hv⟩ := Option.isSome_iff_exists.1 hsup
    have hlatched : k < (latch op s).key.length := by
      rwa [length_latch_key, min_eq_left hle]
    exact ⟨(latch_key_of_read hlatched (hkeymem k v hv)).trans hv.symm, hsup⟩
  · have hsup := hpay k (length_latch_payload ▸ hk)
    obtain ⟨v, hv⟩ := Option.isSome_iff_exists.1 hsup
    exact ⟨(latch_payload_of_read hk (hinmem k v hv)).trans hv.symm, hsup⟩

end Sys2Proof.Machine
end
